-- ==== Sys2Proof/Word.lean ====
section
/-! DEFINITION. The word types of the block: every value is unsigned (`00_scope.md` R9). -/

namespace Sys2Proof

/-- A byte, 0 to 255 (R9). -/
abbrev Byte := BitVec 8

/-- A 16-bit field or register (R60). -/
abbrev Half := BitVec 16

/-- The 17-bit registers `OUT_LEN` and `TX_PTR` (R35). -/
abbrev FrameIndex := BitVec 17

end Sys2Proof
end

