-- ==== Sys2Proof/Syntax.lean ====
section
/-! DEFINITION. The instructions: one constructor per row of `spec/opcode_table.json`. R13 reads "instruction word" as the
OPC header, the 2-bit `PSEL`, the handshake word, or a header or footer the block emits. -/

namespace Sys2Proof

/-- One constructor per row of the opcode table (R97). An `OPC.UNSUPPORTED.k` row covers the command bytes whose most
significant set bit is bit `k` (R82); `low` is the `k` bits of the command below that bit. -/
inductive Instr where
  /-- `OPC.SET_PIXEL_COLORS`: command 0x00 (R104). -/
  | opcSetPixelColors (channel : Byte) (dataLen : Half)
  /-- `OPC.UNSUPPORTED.0`: command 0x01. -/
  | opcUnsupported0 (channel : Byte) (dataLen : Half)
  /-- `OPC.UNSUPPORTED.1`: commands 0x02 to 0x03. -/
  | opcUnsupported1 (channel : Byte) (low : BitVec 1) (dataLen : Half)
  /-- `OPC.UNSUPPORTED.2`: commands 0x04 to 0x07. -/
  | opcUnsupported2 (channel : Byte) (low : BitVec 2) (dataLen : Half)
  /-- `OPC.UNSUPPORTED.3`: commands 0x08 to 0x0F. -/
  | opcUnsupported3 (channel : Byte) (low : BitVec 3) (dataLen : Half)
  /-- `OPC.UNSUPPORTED.4`: commands 0x10 to 0x1F. -/
  | opcUnsupported4 (channel : Byte) (low : BitVec 4) (dataLen : Half)
  /-- `OPC.UNSUPPORTED.5`: commands 0x20 to 0x3F. -/
  | opcUnsupported5 (channel : Byte) (low : BitVec 5) (dataLen : Half)
  /-- `OPC.UNSUPPORTED.6`: commands 0x40 to 0x7F. -/
  | opcUnsupported6 (channel : Byte) (low : BitVec 6) (dataLen : Half)
  /-- `OPC.UNSUPPORTED.7`: commands 0x80 to 0xFF. -/
  | opcUnsupported7 (channel : Byte) (low : BitVec 7) (dataLen : Half)
  /-- `ENC.ADALIGHT`: `PSEL` = 00 (R144). -/
  | encAdalight
  /-- `ENC.AWA`: `PSEL` = 01 (R153). -/
  | encAwa
  /-- `ENC.TPM2`: `PSEL` = 10 (R162). -/
  | encTpm2
  /-- `PSEL.RESERVED`: `PSEL` = 11 (R233). -/
  | pselReserved
  /-- `HS.MAGIC`: the handshake word 0x4164610A (R174). -/
  | hsMagic
  /-- `HS.MISMATCH`: any other handshake word (R174). -/
  | hsMismatch (b0 b1 b2 b3 : Byte)
  /-- `TX.ADALIGHT.HDR`: count field `c` and header checksum `k` (R86, R144). -/
  | txAdalightHdr (c : Half) (k : Byte)
  /-- `TX.AWA.HDR`: count field `c` and header checksum `k` (R87, R153). -/
  | txAwaHdr (c : Half) (k : Byte)
  /-- `TX.AWA.FTR`: the Fletcher-16 sums, `f` = `FL1` first (R87, R152). -/
  | txAwaFtr (f g : Byte)
  /-- `TX.TPM2.HDR`: the payload length `n` (R88, R162). -/
  | txTpm2Hdr (n : Half)
  /-- `TX.TPM2.FTR`: the end marker (R88, R162). -/
  | txTpm2Ftr
  deriving DecidableEq, Repr

end Sys2Proof
end

