-- ==== Sys2Proof/Decode.lean ====
section
/-! DEFINITION. The formats of `30_encoding.md`, the decoder (total on any bytes, rejecting by name), the encoder, and the
host's view of the decoder over the words of `spec/opcode_table.json`. -/

namespace Sys2Proof

/-- `v[15:8]` (R10). -/
def hiByte (v : Half) : Byte := v.extractLsb' 8 8

/-- `v[7:0]` (R10). -/
def loByte (v : Half) : Byte := v.extractLsb' 0 8

/-- `(h << 8) | l` (R10, R60, R83): the byte at the lower index is the most significant. -/
def be16 (h l : Byte) : Half := h ++ l

/-- The formats whose words are rows of the opcode table (R80). A format's word is read where the machine looks for it: the
header of `RXBUF`, `CFG.PROTOCOL`, `HS_BUF`, or `OUTBUF`. -/
inductive Format where
  | opcHdr
  | psel
  | hsMagic
  | adaHdr
  | awaHdr
  | awaFtr
  | tpm2Hdr
  | tpm2Ftr
  deriving DecidableEq, Repr

/-- Why the decoder refuses. -/
inductive Reject where
  /-- Fewer bytes than the format's fixed part. -/
  | tooFewBytes
  /-- A byte that holds `PSEL` has a bit above bit 1 set: `PSEL` is 2 bits (R85). -/
  | pselTooWide
  /-- The constant bytes of an emitted header or footer differ (R86 to R88). -/
  | wrongConstant
  deriving DecidableEq, Repr

/-- The command byte of an `OPC.UNSUPPORTED.k` row: bit `k` set, `low` below it, zeros above (R82). -/
def unsupportedCommand {k : Nat} (low : BitVec k) : Byte := (1#1 ++ low).setWidth 8

/-- The row of the opcode map that holds the command byte (R82): the position of its most significant set bit. -/
def decodeOpc (channel command : Byte) (dataLen : Half) : Instr :=
  if command.getLsbD 7 then .opcUnsupported7 channel (command.extractLsb' 0 7) dataLen
  else if command.getLsbD 6 then .opcUnsupported6 channel (command.extractLsb' 0 6) dataLen
  else if command.getLsbD 5 then .opcUnsupported5 channel (command.extractLsb' 0 5) dataLen
  else if command.getLsbD 4 then .opcUnsupported4 channel (command.extractLsb' 0 4) dataLen
  else if command.getLsbD 3 then .opcUnsupported3 channel (command.extractLsb' 0 3) dataLen
  else if command.getLsbD 2 then .opcUnsupported2 channel (command.extractLsb' 0 2) dataLen
  else if command.getLsbD 1 then .opcUnsupported1 channel (command.extractLsb' 0 1) dataLen
  else if command.getLsbD 0 then .opcUnsupported0 channel dataLen
  else .opcSetPixelColors channel dataLen

/-- The `PSEL` map (R85) over the byte that holds the two bits. -/
def decodePsel (b : Byte) : Option Instr :=
  if b = 0#8 then some .encAdalight
  else if b = 1#8 then some .encAwa
  else if b = 2#8 then some .encTpm2
  else if b = 3#8 then some .pselReserved
  else none

/-- The handshake word (R92, R174): all 32 bits are compared. -/
def decodeHs (b0 b1 b2 b3 : Byte) : Instr :=
  if b0 = 0x41#8 ∧ b1 = 0x64#8 ∧ b2 = 0x61#8 ∧ b3 = 0x0A#8 then .hsMagic
  else .hsMismatch b0 b1 b2 b3

/-- Reads one word of the format from the front of the bytes and answers it with the bytes that follow. The fields of an
emitted word are read as the table's pattern gives them; their relations are `Instr.wellFormed`. -/
def decode : Format → List Byte → Except Reject (Instr × List Byte)
  | .opcHdr, channel :: command :: h :: l :: rest => .ok (decodeOpc channel command (be16 h l), rest)
  | .opcHdr, _ => .error .tooFewBytes
  | .psel, b :: rest =>
    match decodePsel b with
    | some i => .ok (i, rest)
    | none => .error .pselTooWide
  | .psel, _ => .error .tooFewBytes
  | .hsMagic, b0 :: b1 :: b2 :: b3 :: rest => .ok (decodeHs b0 b1 b2 b3, rest)
  | .hsMagic, _ => .error .tooFewBytes
  | .adaHdr, m0 :: m1 :: m2 :: h :: l :: k :: rest =>
    if m0 = 0x41#8 ∧ m1 = 0x64#8 ∧ m2 = 0x61#8 then .ok (.txAdalightHdr (be16 h l) k, rest)
    else .error .wrongConstant
  | .adaHdr, _ => .error .tooFewBytes
  | .awaHdr, m0 :: m1 :: m2 :: h :: l :: k :: rest =>
    if m0 = 0x41#8 ∧ m1 = 0x77#8 ∧ m2 = 0x61#8 then .ok (.txAwaHdr (be16 h l) k, rest)
    else .error .wrongConstant
  | .awaHdr, _ => .error .tooFewBytes
  | .awaFtr, f :: g :: rest => .ok (.txAwaFtr f g, rest)
  | .awaFtr, _ => .error .tooFewBytes
  | .tpm2Hdr, m0 :: m1 :: h :: l :: rest =>
    if m0 = 0xC9#8 ∧ m1 = 0xDA#8 then .ok (.txTpm2Hdr (be16 h l), rest)
    else .error .wrongConstant
  | .tpm2Hdr, _ => .error .tooFewBytes
  | .tpm2Ftr, m0 :: rest =>
    if m0 = 0x36#8 then .ok (.txTpm2Ftr, rest)
    else .error .wrongConstant
  | .tpm2Ftr, _ => .error .tooFewBytes

/-- The format of an instruction's word (R80, the table's "format"). -/
def Instr.format : Instr → Format
  | .opcSetPixelColors _ _ => .opcHdr
  | .opcUnsupported0 _ _ => .opcHdr
  | .opcUnsupported1 _ _ _ => .opcHdr
  | .opcUnsupported2 _ _ _ => .opcHdr
  | .opcUnsupported3 _ _ _ => .opcHdr
  | .opcUnsupported4 _ _ _ => .opcHdr
  | .opcUnsupported5 _ _ _ => .opcHdr
  | .opcUnsupported6 _ _ _ => .opcHdr
  | .opcUnsupported7 _ _ _ => .opcHdr
  | .encAdalight => .psel
  | .encAwa => .psel
  | .encTpm2 => .psel
  | .pselReserved => .psel
  | .hsMagic => .hsMagic
  | .hsMismatch _ _ _ _ => .hsMagic
  | .txAdalightHdr _ _ => .adaHdr
  | .txAwaHdr _ _ => .awaHdr
  | .txAwaFtr _ _ => .awaFtr
  | .txTpm2Hdr _ => .tpm2Hdr
  | .txTpm2Ftr => .tpm2Ftr

/-- The four bytes of an OPC header (R81). -/
def opcHeaderBytes (channel command : Byte) (dataLen : Half) : List Byte :=
  [channel, command, hiByte dataLen, loByte dataLen]

/-- The six bytes of an Adalight or AWA header; only `magic1` differs (R86, R87). -/
def adaHeaderBytes (magic1 : Byte) (c : Half) (k : Byte) : List Byte :=
  [0x41#8, magic1, 0x61#8, hiByte c, loByte c, k]

/-- The four bytes of a TPM2 header (R88). -/
def tpm2HeaderBytes (n : Half) : List Byte :=
  [0xC9#8, 0xDA#8, hiByte n, loByte n]

/-- The bytes of an instruction's word, byte 0 first on the wire (R81, R85 to R88, R92). `PSEL` is the low two bits of a
byte whose other bits are 0. -/
def encode : Instr → List Byte
  | .opcSetPixelColors channel dataLen => opcHeaderBytes channel 0x00#8 dataLen
  | .opcUnsupported0 channel dataLen => opcHeaderBytes channel 0x01#8 dataLen
  | .opcUnsupported1 channel low dataLen => opcHeaderBytes channel (unsupportedCommand low) dataLen
  | .opcUnsupported2 channel low dataLen => opcHeaderBytes channel (unsupportedCommand low) dataLen
  | .opcUnsupported3 channel low dataLen => opcHeaderBytes channel (unsupportedCommand low) dataLen
  | .opcUnsupported4 channel low dataLen => opcHeaderBytes channel (unsupportedCommand low) dataLen
  | .opcUnsupported5 channel low dataLen => opcHeaderBytes channel (unsupportedCommand low) dataLen
  | .opcUnsupported6 channel low dataLen => opcHeaderBytes channel (unsupportedCommand low) dataLen
  | .opcUnsupported7 channel low dataLen => opcHeaderBytes channel (unsupportedCommand low) dataLen
  | .encAdalight => [0x00#8]
  | .encAwa => [0x01#8]
  | .encTpm2 => [0x02#8]
  | .pselReserved => [0x03#8]
  | .hsMagic => [0x41#8, 0x64#8, 0x61#8, 0x0A#8]
  | .hsMismatch b0 b1 b2 b3 => [b0, b1, b2, b3]
  | .txAdalightHdr c k => adaHeaderBytes 0x64#8 c k
  | .txAwaHdr c k => adaHeaderBytes 0x77#8 c k
  | .txAwaFtr f g => [f, g]
  | .txTpm2Hdr n => tpm2HeaderBytes n
  | .txTpm2Ftr => [0x36#8]

/-- The `k` bytes of the number `w`, most significant first: how `30_encoding.md` lays a wide word out. -/
def bytesOfNat : Nat → Nat → List Byte
  | 0, _ => []
  | k + 1, w => BitVec.ofNat 8 (w >>> (8 * k)) :: bytesOfNat k w

/-- The formats a table word of that many bits is tried in, in order. A 32-bit word alone does not say which stream it
stands in. DESIGN CHOICE (log 7): a word that begins `41 64 61` is a handshake word, one that begins `C9 DA` is a TPM2
header, any other is an OPC header. -/
def tableFormats (nbits : Nat) (bytes : List Byte) : List Format :=
  match nbits with
  | 2 => [.psel]
  | 8 => [.psel, .tpm2Ftr]
  | 16 => [.awaFtr]
  | 32 => if bytes.take 3 = [0x41#8, 0x64#8, 0x61#8] then [.hsMagic] else [.tpm2Hdr, .opcHdr]
  | 48 => [.adaHdr, .awaHdr]
  | _ => []

/-- The first format of the list that reads the whole of the bytes. -/
def decodeFirst : List Format → List Byte → Option Instr
  | [], _ => none
  | f :: fs, bytes =>
    match decode f bytes with
    | .ok (i, []) => some i
    | _ => decodeFirst fs bytes

/-- The bytes of a table word of `nbits` bits (a 2-bit row takes a whole byte). -/
def tableBytes (nbits w : Nat) : List Byte := bytesOfNat ((nbits + 7) / 8) w

/-- The instruction the decoder reads from a table word: byte 0 is the most significant byte of the word
(`30_encoding.md`, convention). -/
def decodeTableWord (nbits w : Nat) : Option Instr :=
  decodeFirst (tableFormats nbits (tableBytes nbits w)) (tableBytes nbits w)

end Sys2Proof
end

