-- ==== Sys2Proof/Config.lean ====
section
/-! DEFINITION. What is fixed for the machine: the closed set of protocols, the fixed constants, the constants the spec
leaves OPEN, and the values `State.reset` takes where the spec leaves a parameter or a strap free. -/

namespace Sys2Proof

/-- The three output protocols, a closed set (R2, R21). The reserved strap value is no protocol (R85, R233). -/
inductive Protocol where
  | adalight
  | awa
  | tpm2
  deriving DecidableEq, Repr

/-- `BAUD_ADALIGHT`: OPEN, a positive integer without a value, read by no rule (R6, U19). Log 13. -/
opaque Config.baudAdalight : ℕ+

/-- `BAUD_AWA`: OPEN, a positive integer without a value, read by no rule (R6, U19). Log 13. -/
opaque Config.baudAwa : ℕ+

/-- `BAUD_TPM2`: OPEN, a positive integer without a value, read by no rule (R6, U19). Log 13. -/
opaque Config.baudTpm2 : ℕ+

/-- `OPC_HEADER_LEN` (R6). -/
def Config.opcHeaderLen : Nat := 4

/-- `MAX_DATA_LEN` (R6). -/
def Config.maxDataLen : Nat := 65535

/-- The greatest `OUTBUF_SIZE` (R6): the longest frame the block can emit, 6 + 65535 + 2 (R35, R89). -/
def Config.maxOutbufSize : Nat := 65543

/-- The least legal `RXBUF_SIZE` (R6, R7). -/
def Config.minRxbufSize : Nat := 4

/-- The default of the strap `cfg_hs_timeout_ms` (R6, R23). -/
def Config.defaultHsTimeoutMs : Half := 5000

/-- The `RXBUF_SIZE` of `State.reset`. DESIGN CHOICE, unsafe: the parameter is OPEN (R6); it is a field of State, so a
statement about every state is about every value. Log 1. -/
def Config.resetRxbufSize : Nat := 1024

/-- The strap `cfg_protocol` of `State.reset`. DESIGN CHOICE, unsafe: the spec gives no default (R6, N20). Log 2. -/
def Config.resetProtocol : BitVec 2 := 0

/-- The strap `cfg_channel` of `State.reset`. DESIGN CHOICE, unsafe: the spec gives no default (R6, N20). Log 2. -/
def Config.resetChannel : Byte := 0

end Sys2Proof
end

