-- ==== Sys2Proof/Machine/State.lean ====
section
/-! DEFINITION. The state of the block (`10_state.md` R20), the stimuli of its environment (R45, R95, R203), the reasons a
step can stop, and the machine right after reset. -/

namespace Sys2Proof.Machine

/-- `HS`, the HandshakeState (R26). -/
inductive HandshakeState where
  | awaiting
  | ready
  | failed
  deriving DecidableEq, Repr

/-- `HS_CAUSE` (R29). -/
inductive HsCause where
  /-- `NONE`. -/
  | noCause
  /-- `HS_MISMATCH`: four bytes read, not the magic. -/
  | mismatch
  /-- `HS_SHORT_READ`: time-out with 1 to 3 bytes read. -/
  | shortRead
  /-- `HS_TIMED_OUT`: time-out with no byte read. -/
  | timedOut
  /-- `CFG_INVALID`: reserved protocol selection. -/
  | cfgInvalid
  deriving DecidableEq, Repr

/-- `LOOP`, the phase of the control loop (R30). -/
inductive LoopPhase where
  | idle
  | recv
  | decode
  | encode
  | send
  deriving DecidableEq, Repr

/-- `STATUS.ERR`, the verdict of the most recent `DECODE` (R36, R221). -/
inductive ErrCode where
  | ok
  | tooShort
  | channelMismatch
  | unsupportedCommand
  | payloadTooLarge
  | truncatedPayload
  deriving DecidableEq, Repr

/-- The events of R38, as the observer of R39 records them. -/
inductive Event where
  /-- `evt_accept`. -/
  | accept
  /-- `evt_warn`. -/
  | warn
  /-- `evt_drop`, with the value of `STATUS.ERR` (R39 (b)). -/
  | drop (err : ErrCode)
  /-- `evt_sent`, with the length of `TX` at that moment: the frame boundary of R39 (a). -/
  | sent (txLength : Nat)
  deriving DecidableEq, Repr

/-- The one-cycle pulse outputs `evt_*` (R38, R203): what the latest step signalled. -/
structure Pulses where
  accept : Bool
  drop : Bool
  warn : Bool
  sent : Bool
  deriving DecidableEq, Repr

/-- No pulse is up. -/
def Pulses.none : Pulses := { accept := false, drop := false, warn := false, sent := false }

/-- The levels of the strap inputs (R24, R203). -/
structure Straps where
  cfgProtocol : BitVec 2
  cfgChannel : Byte
  cfgHsTimeoutMs : Half
  deriving DecidableEq, Repr

/-- The input ports sampled at one rising edge of `clk` (R203). -/
structure PortIn where
  rst : Bool
  straps : Straps
  dgValid : Bool
  dgData : Byte
  dgLast : Bool
  dgKeep : Bool
  txReady : Bool
  srxValid : Bool
  srxData : Byte
  tickMs : Bool
  deriving DecidableEq, Repr

/-- What happens next: the stimuli of R95 and R230 (level T), the beats and ticks of level S one at a time, a whole clock
cycle of level S with all its ports, and the block's own turn. -/
inductive Stimulus where
  /-- The block performs its own operation, `DECODE` or `ENCODE`, if `LOOP` asks for one (R196, R197). -/
  | turn
  /-- `RESET` with these straps (R95, R250). -/
  | reset (straps : Straps)
  /-- The strap inputs change, without a reset (R24, U13). -/
  | setStraps (straps : Straps)
  /-- `DG`: the transport offers one datagram, `RX_DATAGRAM(d)` (R191). -/
  | datagram (d : List Byte)
  /-- `RX_BEAT(b, keep, last)` (R193). -/
  | rxBeat (b : Byte) (keep last : Bool)
  /-- One byte of `SRX`: `HS_RXBYTE(b)` (R173). -/
  | srx (b : Byte)
  /-- `TIMEOUT`: the event `HS_TIMEOUT` (R176). -/
  | timeout
  /-- One `tick_ms` strobe: `HS_TICK` (R177). -/
  | tick
  /-- The transmitter takes one byte: `TX_BEAT` (R199). -/
  | txBeat
  /-- `TXSTEP k`: the transmitter takes exactly `k` bytes (R95). -/
  | txStep (k : Nat)
  /-- `TXRUN`: the transmitter takes bytes until the block has none pending (R95). -/
  | txRun
  /-- One clock cycle of level S (R203, R204). `done` says whether the `DECODE` or `ENC.*` under way completes at this
  edge: their duration is unspecified (R205, U10), so it is left free. Log 9. -/
  | cycle (ports : PortIn) (done : Bool)
  deriving DecidableEq, Repr

/-- A byte buffer (R43): the (index, byte) pairs written so far, indices strictly rising. An unlisted index has no value
(D25, U6). Log 4. -/
structure Mem where
  cells : List Host.Cell
  deriving DecidableEq, Repr

/-- A buffer in which nothing is written. -/
def Mem.empty : Mem := { cells := [] }

/-- The three buffers (R43), to name the place of a fault. -/
inductive BufferId where
  | rxbuf
  | outbuf
  | hsbuf
  deriving DecidableEq, Repr

/-- Why the machine stops. No rule of the spec stops the block: each of these is what R68 and R197 say cannot happen, and a
statement of the model says that no state that meets the invariant reaches one. All are safe: the model stops where the spec
gives nothing. -/
inductive Fault where
  /-- A read of a buffer byte that nothing has written: raised by the buffer loads. Its value is unspecified and "no rule
  reads" it (D25). Safe. -/
  | unwrittenByte (buffer : BufferId) (index : Nat)
  /-- An access at or beyond the end of a buffer: raised by the buffer loads and stores. "An out-of-range access therefore
  needs no defined behaviour" (R68). Safe. -/
  | outOfBuffer (buffer : BufferId) (index : Nat)
  /-- `ENCODE` with `CFG.PROTOCOL` = 3: raised by the dispatch. "The value 3 cannot occur here" (R197). Safe. -/
  | reservedProtocol
  /-- The decoder refuses the bytes fetched: raised by the fetch. The fetch hands it as many bytes as the format has, so it
  never does. Safe. -/
  | undecodable
  deriving DecidableEq, Repr

/-- Why an instruction has no meaning. -/
inductive Refusal where
  /-- The instruction is not modelled yet: raised by an arm of `exec`. Safe. No arm raises it now. -/
  | notModelled (mnemonic : String)
  deriving DecidableEq, Repr

/-- The complete state of the block (R20), with the parameter, the strap levels, the observer's record and the environment's
script beside it. -/
structure State where
  /-- The parameter `RXBUF_SIZE` (R6, R45), written by nothing. Log 1. -/
  rxbufSize : Nat
  /-- The levels of the strap inputs (R24). Log 2. -/
  straps : Straps
  /-- `CFG.PROTOCOL` (R21). -/
  cfgProtocol : BitVec 2
  /-- `CFG.CHANNEL` (R22). -/
  cfgChannel : Byte
  /-- `CFG.HS_TIMEOUT_MS` (R23). -/
  cfgHsTimeoutMs : Half
  /-- `HS` (R26). -/
  hs : HandshakeState
  /-- `HS_BUF[0..3]` (R27). -/
  hsBuf : Mem
  /-- `HS_CNT` (R27). -/
  hsCnt : BitVec 3
  /-- `HS_TIMER` (R28). -/
  hsTimer : Half
  /-- `HS_CAUSE` (R29). -/
  hsCause : HsCause
  /-- `LOOP` (R30). -/
  loop : LoopPhase
  /-- `RXBUF` (R31). -/
  rxbuf : Mem
  /-- `RX_LEN` (R31). -/
  rxLen : Nat
  /-- `F_CHANNEL` (R32). -/
  fChannel : Byte
  /-- `F_COMMAND` (R32). -/
  fCommand : Byte
  /-- `F_LEN` (R32). -/
  fLen : Half
  /-- `ADA_CNT` (R33). -/
  adaCnt : Half
  /-- `ADA_CK` (R33). -/
  adaCk : Byte
  /-- `FL1` (R34). -/
  fl1 : Byte
  /-- `FL2` (R34). -/
  fl2 : Byte
  /-- `OUTBUF` (R35). -/
  outbuf : Mem
  /-- `OUT_LEN` (R35). -/
  outLen : FrameIndex
  /-- `TX_PTR` (R35). -/
  txPtr : FrameIndex
  /-- `STATUS.ERR` (R36). -/
  statusErr : ErrCode
  /-- `STATUS.WARN3` (R37). -/
  statusWarn3 : Bool
  /-- `TX`: the bytes the serial transmitter has accepted since reset (R39 (a), R200). -/
  tx : List Byte
  /-- The events since reset, oldest first (R39 (b)). Log 10. -/
  events : List Event
  /-- The pulse outputs (R38, R203). Log 10. -/
  pulses : Pulses
  /-- What the environment does next, oldest first (R45, R95). Log 3. -/
  script : List Stimulus
  deriving DecidableEq, Repr

/-- What a step answers. -/
abbrev Out := Host.Outcome State Fault Refusal

/-- The machine right after `RESET` (R41), with the strap values and `RXBUF_SIZE` of `Config`: ADALIGHT, so `HS` = AWAITING.
Logs 1 and 2; for every other value see `freshState`. -/
def State.reset : State where
  rxbufSize := Config.resetRxbufSize
  straps :=
    { cfgProtocol := Config.resetProtocol
      cfgChannel := Config.resetChannel
      cfgHsTimeoutMs := Config.defaultHsTimeoutMs }
  cfgProtocol := Config.resetProtocol
  cfgChannel := Config.resetChannel
  cfgHsTimeoutMs := Config.defaultHsTimeoutMs
  hs := .awaiting
  hsBuf := Mem.empty
  hsCnt := 0
  hsTimer := 0
  hsCause := .noCause
  loop := .idle
  rxbuf := Mem.empty
  rxLen := 0
  fChannel := 0
  fCommand := 0
  fLen := 0
  adaCnt := 0
  adaCk := 0
  fl1 := 0
  fl2 := 0
  outbuf := Mem.empty
  outLen := 0
  txPtr := 0
  statusErr := .ok
  statusWarn3 := false
  tx := []
  events := []
  pulses := Pulses.none
  script := []

end Sys2Proof.Machine
end

