-- ==== Sys2Proof/Machine/Flags.lean ====
section
/-! DEFINITION. The computed status and check values: `STATUS.WARN3`, the two checksums, and the numeric codes that the
status ports drive. -/

namespace Sys2Proof.Machine

open Sys2Proof

/-- `STATUS.WARN3` of an accepted datagram: the length is no multiple of 3 (R37, R109). -/
def warn3 (dataLen : Half) : Bool := dataLen.toNat % 3 != 0

/-- `ADA_XOR(c)` (R130). -/
def adaXor (c : Half) : Byte := hiByte c ^^^ loByte c ^^^ 0x55#8

/-- One byte of the Fletcher-16 accumulation (R132): `f2` takes the new `f1`. -/
def fletcherStep (f : Byte × Byte) (b : Byte) : Byte × Byte :=
  let f1 := (f.1.toNat + b.toNat) % 255
  let f2 := (f.2.toNat + f1) % 255
  (BitVec.ofNat 8 f1, BitVec.ofNat 8 f2)

/-- `FLETCHER16(p)` = `[f1, f2]` (R132), from `f1` = `f2` = 0, bytes in ascending order. -/
def fletcher16 (p : List Byte) : Byte × Byte := p.foldl fletcherStep (0#8, 0#8)

/-- The 4-bit code of `STATUS.ERR` (R221). -/
def ErrCode.code : ErrCode → BitVec 4
  | .ok => 0
  | .tooShort => 1
  | .channelMismatch => 2
  | .unsupportedCommand => 3
  | .payloadTooLarge => 4
  | .truncatedPayload => 5

/-- The 3-bit code of `HS_CAUSE` (R29). -/
def HsCause.code : HsCause → BitVec 3
  | .noCause => 0
  | .mismatch => 1
  | .shortRead => 2
  | .timedOut => 3
  | .cfgInvalid => 4

/-- The 2-bit code of `HS` (R26). -/
def HandshakeState.code : HandshakeState → BitVec 2
  | .awaiting => 0
  | .ready => 1
  | .failed => 2

/-- The 3-bit code of `LOOP` (R30). -/
def LoopPhase.code : LoopPhase → BitVec 3
  | .idle => 0
  | .recv => 1
  | .decode => 2
  | .encode => 3
  | .send => 4

end Sys2Proof.Machine
end

