-- ==== Sys2Proof/Machine/Operands.lean ====
section
/-! DEFINITION. Operand assembly (`30_encoding.md` section 2) and the table of protocol descriptors `PSPEC` (R25). -/

namespace Sys2Proof.Machine

open Sys2Proof

/-- The LED count of a payload of `n` bytes: `n div 3` (R141). -/
def ledCount (n : Half) : Nat := n.toNat / 3

/-- The Adalight/AWA count field `(led_count - 1) mod 2^16` (R90, R142): 0xFFFF for fewer than 3 bytes. -/
def countField (n : Half) : Half := BitVec.ofNat 16 (ledCount n) - 1

/-- The protocol a value of `CFG.PROTOCOL` selects; 3 is reserved (R21, R85). -/
def protocolOf (p : BitVec 2) : Option Protocol :=
  if p = 0#2 then some .adalight
  else if p = 1#2 then some .awa
  else if p = 2#2 then some .tpm2
  else none

/-- A SerialProtocolSpec descriptor (R25). -/
structure SerialProtocolSpec where
  headerLen : Nat
  footerLen : Nat
  /-- Header bytes 0 and up that are constants. -/
  headerMagic : List Byte
  /-- Whether the protocol performs the handshake. -/
  handshake : Bool
  /-- The format of the header's word. -/
  headerFormat : Format
  /-- The format of the footer's word, where there is one. -/
  footerFormat : Option Format
  /-- `default_baud_rate`: OPEN, read by no rule. Log 13. -/
  defaultBaudRate : ℕ+

/-- `PSPEC` (R25; the AWA footer is 2 bytes by C1, and only ADALIGHT handshakes by C2). -/
def pspec : Protocol → SerialProtocolSpec
  | .adalight =>
    { headerLen := 6, footerLen := 0, headerMagic := [0x41#8, 0x64#8, 0x61#8], handshake := true
      headerFormat := .adaHdr, footerFormat := none, defaultBaudRate := Config.baudAdalight }
  | .awa =>
    { headerLen := 6, footerLen := 2, headerMagic := [0x41#8, 0x77#8, 0x61#8], handshake := false
      headerFormat := .awaHdr, footerFormat := some .awaFtr, defaultBaudRate := Config.baudAwa }
  | .tpm2 =>
    { headerLen := 4, footerLen := 1, headerMagic := [0xC9#8, 0xDA#8], handshake := false
      headerFormat := .tpm2Hdr, footerFormat := some .tpm2Ftr, defaultBaudRate := Config.baudTpm2 }

/-- The length of an output frame, `header_len + n + footer_len` (R89). -/
def frameLength (p : Protocol) (n : Half) : Nat :=
  (pspec p).headerLen + n.toNat + (pspec p).footerLen

end Sys2Proof.Machine
end

