-- ==== Sys2Proof/Machine/Ops.lean ====
section
/-! DEFINITION. The named operations over the buffers and the registers, shared by the meanings: buffer access (R11, R64,
R68), the entry of a decode error (R224) and of a handshake failure (R228), `DECODE` (R101), the layout of a frame (R67),
`TX_BEAT` (R199) and `RESET` (R250). There is no return from an error: R225, R229. -/

namespace Sys2Proof.Machine

open Sys2Proof

/-! ### Outcomes -/

/-- Goes on from a next state, and passes a fault or a refusal on. -/
def andThen (o : Out) (k : State → Out) : Out :=
  match o with
  | .next s => k s
  | .fault r => .fault r
  | .refused r => .refused r

/-- Goes on with the value of an access, or stops with its fault. -/
def withAccess {α : Type} (r : Except Fault α) (k : α → Out) : Out :=
  match r with
  | .ok a => k a
  | .error f => .fault f

/-! ### Buffers -/

/-- The byte the list holds at the index. -/
def lookupCell : List Host.Cell → Nat → Option Byte
  | [], _ => none
  | c :: cs, a => if c.1 = a then some c.2 else lookupCell cs a

/-- Puts a byte at the index, keeping the indices rising. -/
def insertCell : List Host.Cell → Nat → Byte → List Host.Cell
  | [], a, b => [(a, b)]
  | c :: cs, a, b =>
    if a < c.1 then (a, b) :: c :: cs
    else if a = c.1 then (a, b) :: cs
    else c :: insertCell cs a b

/-- The byte at the index; none where nothing is written (D25, U6; log 4). -/
def Mem.read (m : Mem) (a : Nat) : Option Byte := lookupCell m.cells a

/-- `m` with the byte at the index. -/
def Mem.write (m : Mem) (a : Nat) (b : Byte) : Mem := { cells := insertCell m.cells a b }

/-- The canonical form: indices strictly rising. (An unlisted index has no value, so no entry can equal it.) -/
abbrev Mem.wf (m : Mem) : Prop := m.cells.Pairwise (fun c d => c.1 < d.1)

/-- `m` with the bytes at `a`, `a + 1`, ..., written in ascending order (R64). -/
def Mem.writeBytes (m : Mem) (a : Nat) : List Byte → Mem
  | [] => m
  | b :: bs => Mem.writeBytes (m.write a b) (a + 1) bs

/-- `MemRead(S, a, 1)` (R11) of a buffer of that size. -/
def loadByte (k : BufferId) (size : Nat) (m : Mem) (a : Nat) : Except Fault Byte :=
  if a < size then
    match m.read a with
    | some b => .ok b
    | none => .error (.unwrittenByte k a)
  else .error (.outOfBuffer k a)

/-- The `n` bytes from index `a` up, read one at a time in ascending order (R64). -/
def loadBytes (k : BufferId) (size : Nat) (m : Mem) (a : Nat) : Nat → Except Fault (List Byte)
  | 0 => .ok []
  | n + 1 =>
    match loadByte k size m a with
    | .error f => .error f
    | .ok b =>
      match loadBytes k size m (a + 1) n with
      | .error f => .error f
      | .ok bs => .ok (b :: bs)

/-- The bytes stored from index `a` up in a buffer of that size (R11, R64). -/
def storeBytes (k : BufferId) (size : Nat) (m : Mem) (a : Nat) (bs : List Byte) : Except Fault Mem :=
  if a + bs.length ≤ size then .ok (m.writeBytes a bs)
  else .error (.outOfBuffer k (max a size))

/-- `OUTBUF_SIZE` = `RXBUF_SIZE` - 4 + 8, at most 65543 (R6), the longest frame (R89): a larger `RXBUF_SIZE` behaves as 65539 (R7).
DEDUCED (log 20) where R68 and D17 give the formula without the cap. -/
def State.outbufSize (s : State) : Nat := min (s.rxbufSize + 4) Config.maxOutbufSize

/-- The size of `HS_BUF` (R43). -/
def hsBufSize : Nat := 4

/-! ### Steps and events -/

/-- The state a step works on: the stimulus taken from the script, the pulses of the step before down (R38). -/
def State.beginStep (s : State) : State := { s with script := s.script.tail, pulses := Pulses.none }

/-- `signal evt_*` (R38): the pulse goes up and the observer records the event. -/
def State.signal (s : State) (e : Event) : State :=
  { s with
    events := s.events ++ [e]
    pulses :=
      match e with
      | .accept => { s.pulses with accept := true }
      | .warn => { s.pulses with warn := true }
      | .drop _ => { s.pulses with drop := true }
      | .sent _ => { s.pulses with sent := true } }

/-! ### Taking an error -/

/-- `raise E` (R224): `STATUS.ERR` takes the code, `evt_drop` is signalled, `LOOP` goes to `IDLE`, and nothing else. Nothing
is saved and there is no return (R225). -/
def raiseError (e : ErrCode) (s : State) : State :=
  { s.signal (.drop e) with statusErr := e, loop := .idle }

/-- Entry of a handshake failure (R228): `HS` goes to `FAILED` with the cause. Only `RESET` leaves it (R229). -/
def failHandshake (c : HsCause) (s : State) : State := { s with hs := .failed, hsCause := c }

/-! ### DECODE -/

/-- A successful `DECODE` (R101, R108, R109): `STATUS.ERR`, `STATUS.WARN3`, the events, and `LOOP` to `ENCODE`. -/
def acceptFrame (s : State) : State :=
  let s1 := { s with statusErr := .ok, statusWarn3 := warn3 s.fLen, loop := .encode }
  let s2 := s1.signal .accept
  if warn3 s.fLen then s2.signal .warn else s2

/-- The operation `DECODE` (R101) on the header `channel`, `command`, `dataLen`, its checks in their normative order; `4 +
dataLen` does not wrap (R83). Enabled only while `LOOP` = `DECODE` (R100, R190; log 5). -/
def decodeDatagram (channel command : Byte) (dataLen : Half) (s : State) : State :=
  if s.loop ≠ .decode then s
  else if s.rxLen < 4 then raiseError .tooShort s
  else
    let s1 := { s with fChannel := channel }
    if channel ≠ 0#8 ∧ channel ≠ s.cfgChannel then raiseError .channelMismatch s1
    else
      let s2 := { s1 with fCommand := command }
      if command ≠ 0#8 then raiseError .unsupportedCommand s2
      else
        let s3 := { s2 with fLen := dataLen }
        if 4 + dataLen.toNat > s.rxbufSize then raiseError .payloadTooLarge s3
        else if 4 + dataLen.toNat > s.rxLen then raiseError .truncatedPayload s3
        else acceptFrame s3

/-! ### Laying a frame out -/

/-- The payload `RXBUF[4 .. 4 + F_LEN)` (R32, R76). -/
def State.payload (s : State) : Except Fault (List Byte) :=
  loadBytes .rxbuf s.rxbufSize s.rxbuf 4 s.fLen.toNat

/-- `MemWrite`s of the bytes into `OUTBUF` from index `a` up. -/
def layOut (a : Nat) (w : List Byte) (s : State) (k : State → Out) : Out :=
  withAccess (storeBytes .outbuf s.outbufSize s.outbuf a w) fun m => k { s with outbuf := m }

/-- Header, payload and footer into `OUTBUF` one after the other (R67). -/
def layFrame (header payload footer : List Byte) (s : State) (k : State → Out) : Out :=
  layOut 0 header s fun s1 =>
    layOut header.length payload s1 fun s2 =>
      layOut (header.length + payload.length) footer s2 k

/-- How every encoder ends (R144, R153, R162, R198): `OUT_LEN`, `TX_PTR`, `LOOP`. -/
def enterSend (length : Nat) (s : State) : State :=
  { s with outLen := BitVec.ofNat 17 length, txPtr := 0, loop := .send }

/-! ### Transmission -/

/-- `TX_BEAT` with the byte read (R199): the byte goes to `TX`, `TX_PTR` counts up, and after the last byte `evt_sent` is
signalled and `LOOP` goes to `IDLE`. Nothing outside `SEND`. -/
def sendByte (b : Byte) (s : State) : State :=
  if s.loop = .send then
    let s1 := { s with tx := s.tx ++ [b], txPtr := s.txPtr + 1 }
    if s1.txPtr = s1.outLen then { s1.signal (.sent s1.tx.length) with loop := .idle } else s1
  else s

/-- The bytes sent one after the other. -/
def sendBytes : List Byte → State → State
  | [], s => s
  | b :: bs, s => sendBytes bs (sendByte b s)

/-- `TX_BEAT` (R199), enabled only while `LOOP` = `SEND`. -/
def txBeat (s : State) : Out :=
  if s.loop = .send then
    withAccess (loadByte .outbuf s.outbufSize s.outbuf s.txPtr.toNat) fun b => .next (sendByte b s)
  else .next s

/-- `k` times `TX_BEAT`: `TXSTEP k` (R95). -/
def txBeats : Nat → State → Out
  | 0, s => .next s
  | k + 1, s => andThen (txBeat s) (txBeats k)

/-- `TXRUN` (R95): `TX_BEAT`s until the block has no byte pending. -/
def txRun (s : State) : Out := txBeats (s.outLen.toNat - s.txPtr.toNat) s

/-- The meaning an emitted header or footer shares (log 6): while `LOOP` = `ENCODE` the word is laid out in `OUTBUF` from
index `a` up (R144, R152, R153, R162); while `LOOP` = `SEND` its bytes go to the transmitter (R199, R200); in any other
phase nothing is emitted (R190). DESIGN CHOICE (log 22): neither `CFG.PROTOCOL` nor where `TX_PTR` stands is tested. -/
def emitWord (a : Nat) (w : List Byte) (s : State) : Out :=
  match s.loop with
  | .encode => layOut a w s .next
  | .send => .next (sendBytes w s)
  | .idle => .next s
  | .recv => .next s
  | .decode => .next s

/-! ### Handshake word -/

/-- The four handshake bytes are in `HS_BUF` and counted (R173). -/
def receiveHsWord (b0 b1 b2 b3 : Byte) (s : State) : State :=
  { s with hsBuf := s.hsBuf.writeBytes 0 [b0, b1, b2, b3], hsCnt := 4 }

/-! ### RESET -/

/-- The initial `HS` (R41, R251): only ADALIGHT awaits; the reserved selection has failed (R233). -/
def initialHs (p : BitVec 2) : HandshakeState :=
  if p = 0#2 then .awaiting else if p = 3#2 then .failed else .ready

/-- The initial `HS_CAUSE` (R41). -/
def initialCause (p : BitVec 2) : HsCause := if p = 3#2 then .cfgInvalid else .noCause

/-- The state right after `RESET` for any `RXBUF_SIZE` and straps (R41, R250), before the environment's script. -/
def freshState (rxbufSize : Nat) (straps : Straps) (script : List Stimulus) : State where
  rxbufSize := rxbufSize
  straps := straps
  cfgProtocol := straps.cfgProtocol
  cfgChannel := straps.cfgChannel
  cfgHsTimeoutMs := straps.cfgHsTimeoutMs
  hs := initialHs straps.cfgProtocol
  hsBuf := Mem.empty
  hsCnt := 0
  hsTimer := 0
  hsCause := initialCause straps.cfgProtocol
  loop := .idle
  rxbuf := Mem.empty
  rxLen := 0
  fChannel := 0
  fCommand := 0
  fLen := 0
  adaCnt := 0
  adaCk := 0
  fl1 := 0
  fl2 := 0
  outbuf := Mem.empty
  outLen := 0
  txPtr := 0
  statusErr := .ok
  statusWarn3 := false
  tx := []
  events := []
  pulses := Pulses.none
  script := script

/-- The operation `RESET` (R250): the straps are latched, the rest takes its reset value whatever it was; the buffers'
contents become unspecified (nothing listed; log 4), the session and `TX` begin anew. -/
def resetBlock (s : State) : State := freshState s.rxbufSize s.straps s.script

/-- `RESET` with the strap inputs at these levels (R24). -/
def resetWith (straps : Straps) (s : State) : State := resetBlock { s with straps := straps }

end Sys2Proof.Machine
end

