-- ==== Sys2Proof/Machine/Emitted.lean ====
section
/-! DEFINITION. The meanings of the emitted rows: the headers and footers the encoders lay out in `OUTBUF` and the
transmitter takes (R86 to R88, R144, R152, R153, R162, R200). Log 6. -/

namespace Sys2Proof.Machine

open Sys2Proof

/-- `TX.ADALIGHT.HDR` (R86, R144): bytes 0 to 5 of the frame. -/
def execTxAdalightHdr (c : Half) (k : Byte) (s : State) : Out :=
  emitWord 0 (adaHeaderBytes 0x64#8 c k) s

/-- `TX.AWA.HDR` (R87, R153): bytes 0 to 5 of the frame. -/
def execTxAwaHdr (c : Half) (k : Byte) (s : State) : Out :=
  emitWord 0 (adaHeaderBytes 0x77#8 c k) s

/-- `TX.AWA.FTR` (R87, R152): `f1` at index `6 + n`, `f2` at `6 + n + 1`. -/
def execTxAwaFtr (f g : Byte) (s : State) : Out :=
  emitWord (6 + s.fLen.toNat) [f, g] s

/-- `TX.TPM2.HDR` (R88, R162): bytes 0 to 3 of the frame. -/
def execTxTpm2Hdr (n : Half) (s : State) : Out :=
  emitWord 0 (tpm2HeaderBytes n) s

/-- `TX.TPM2.FTR` (R88, R162): the end marker at index `4 + n`. -/
def execTxTpm2Ftr (s : State) : Out :=
  emitWord (4 + s.fLen.toNat) [0x36#8] s

end Sys2Proof.Machine
end

