-- ==== Sys2Proof/Machine/Encoders.lean ====
section
/-! DEFINITION. The meanings of the `PSEL` rows: the three encoders (R144, R153, R162), enabled only while `LOOP` = `ENCODE`
(R190; log 5), and the reserved selection (R233). -/

namespace Sys2Proof.Machine

open Sys2Proof

/-- `ENC.ADALIGHT` (R144). DESIGN CHOICE (log 22): `LOOP` alone is tested, where R140 runs it only with `CFG.PROTOCOL` = `ADALIGHT`
and `HS` = `READY`; the step runs it so (R192, R197). -/
def execEncAdalight (s : State) : Out :=
  if s.loop ≠ .encode then .next s
  else
    withAccess s.payload fun p =>
      let c := countField s.fLen
      let k := adaXor c
      layFrame (adaHeaderBytes 0x64#8 c k) p [] { s with adaCnt := c, adaCk := k } fun t =>
        .next (enterSend (6 + s.fLen.toNat) t)

/-- `ENC.AWA` (R153): the Adalight header with `'w'`, and the Fletcher-16 sums of the payload behind it. DESIGN CHOICE (log 22): `LOOP`
alone is tested, where R150 runs it only with `CFG.PROTOCOL` = `AWA`; the step runs it so (R197). -/
def execEncAwa (s : State) : Out :=
  if s.loop ≠ .encode then .next s
  else
    withAccess s.payload fun p =>
      let c := countField s.fLen
      let k := adaXor c
      let f := fletcher16 p
      layFrame (adaHeaderBytes 0x77#8 c k) p [f.1, f.2]
        { s with adaCnt := c, adaCk := k, fl1 := f.1, fl2 := f.2 } fun t =>
        .next (enterSend (8 + s.fLen.toNat) t)

/-- `ENC.TPM2` (R162). DESIGN CHOICE (log 22): `LOOP` alone is tested, where R160 runs it only with `CFG.PROTOCOL` = `TPM2`; the step
runs it so (R197). -/
def execEncTpm2 (s : State) : Out :=
  if s.loop ≠ .encode then .next s
  else
    withAccess s.payload fun p =>
      layFrame (tpm2HeaderBytes s.fLen) p [0x36#8] s fun t =>
        .next (enterSend (5 + s.fLen.toNat) t)

/-- `PSEL.RESERVED` (R233): the operation `RESET` with `cfg_protocol` = 3, which leaves `HS` = `FAILED` and `HS_CAUSE` =
`CFG_INVALID`. Log 8. -/
def execPselReserved (s : State) : Out :=
  .next (resetWith { s.straps with cfgProtocol := 3#2 } s)

end Sys2Proof.Machine
end

