-- ==== Sys2Proof/Machine/Handshake.lean ====
section
/-! DEFINITION. The meanings of the `HS_MAGIC` rows: the verdict on the four handshake bytes (R173, R174), which acts only
while `HS` = `AWAITING` (R170, R179); and the time-out with its timer (R176, R177). -/

namespace Sys2Proof.Machine

open Sys2Proof

/-- `HS.MAGIC` (R174): the four bytes are `41 64 61 0A`, `HS` goes to `READY`. DESIGN CHOICE (log 22): `HS_CNT` is not tested. -/
def execHsMagic (s : State) : Out :=
  if s.hs = .awaiting then
    .next { receiveHsWord 0x41#8 0x64#8 0x61#8 0x0A#8 s with hs := .ready }
  else .next s

/-- `HS.MISMATCH` (R174): the four bytes are any others, the handshake fails (R228). DESIGN CHOICE (log 22): `HS_CNT` is not
tested. -/
def execHsMismatch (b0 b1 b2 b3 : Byte) (s : State) : Out :=
  if s.hs = .awaiting then .next (failHandshake .mismatch (receiveHsWord b0 b1 b2 b3 s))
  else .next s

/-- `HS_TIMEOUT` (R176). -/
def hsTimeout (s : State) : State :=
  if s.hs = .awaiting then
    failHandshake (if s.hsCnt = 0 then .timedOut else .shortRead) s
  else s

/-- `HS_TIMER` counted up, never past 65535 (R28). -/
def nextTimer (t : Half) : Half := if t = 0xFFFF#16 then t else t + 1

/-- `HS_TICK` (R177): the incremented timer is compared with the bound. -/
def hsTick (s : State) : State :=
  if s.hs = .awaiting then
    let s1 := { s with hsTimer := nextTimer s.hsTimer }
    if s1.cfgHsTimeoutMs.toNat ≤ s1.hsTimer.toNat then hsTimeout s1 else s1
  else s

end Sys2Proof.Machine
end

