-- ==== Sys2Proof/Machine/Opc.lean ====
section
/-! DEFINITION. The meanings of the `OPC_HDR` rows: the operation `DECODE` (R101) on a header with that command. Command 0 is
accepted by the command check, 1 to 255 raise `UnsupportedCommand` after the length and channel checks passed (R82, R104). -/

namespace Sys2Proof.Machine

open Sys2Proof

/-- `OPC.SET_PIXEL_COLORS` (R104, R101). -/
def execOpcSetPixelColors (channel : Byte) (dataLen : Half) (s : State) : Out :=
  .next (decodeDatagram channel 0x00#8 dataLen s)

/-- `OPC.UNSUPPORTED.0` (R104): command 0x01. -/
def execOpcUnsupported0 (channel : Byte) (dataLen : Half) (s : State) : Out :=
  .next (decodeDatagram channel 0x01#8 dataLen s)

/-- `OPC.UNSUPPORTED.1` (R104): commands 0x02 to 0x03. -/
def execOpcUnsupported1 (channel : Byte) (low : BitVec 1) (dataLen : Half) (s : State) : Out :=
  .next (decodeDatagram channel (unsupportedCommand low) dataLen s)

/-- `OPC.UNSUPPORTED.2` (R104): commands 0x04 to 0x07. -/
def execOpcUnsupported2 (channel : Byte) (low : BitVec 2) (dataLen : Half) (s : State) : Out :=
  .next (decodeDatagram channel (unsupportedCommand low) dataLen s)

/-- `OPC.UNSUPPORTED.3` (R104): commands 0x08 to 0x0F. -/
def execOpcUnsupported3 (channel : Byte) (low : BitVec 3) (dataLen : Half) (s : State) : Out :=
  .next (decodeDatagram channel (unsupportedCommand low) dataLen s)

/-- `OPC.UNSUPPORTED.4` (R104): commands 0x10 to 0x1F. -/
def execOpcUnsupported4 (channel : Byte) (low : BitVec 4) (dataLen : Half) (s : State) : Out :=
  .next (decodeDatagram channel (unsupportedCommand low) dataLen s)

/-- `OPC.UNSUPPORTED.5` (R104): commands 0x20 to 0x3F. -/
def execOpcUnsupported5 (channel : Byte) (low : BitVec 5) (dataLen : Half) (s : State) : Out :=
  .next (decodeDatagram channel (unsupportedCommand low) dataLen s)

/-- `OPC.UNSUPPORTED.6` (R104): commands 0x40 to 0x7F. -/
def execOpcUnsupported6 (channel : Byte) (low : BitVec 6) (dataLen : Half) (s : State) : Out :=
  .next (decodeDatagram channel (unsupportedCommand low) dataLen s)

/-- `OPC.UNSUPPORTED.7` (R104): commands 0x80 to 0xFF. -/
def execOpcUnsupported7 (channel : Byte) (low : BitVec 7) (dataLen : Half) (s : State) : Out :=
  .next (decodeDatagram channel (unsupportedCommand low) dataLen s)

end Sys2Proof.Machine
end

