-- ==== Sys2Proof/Machine/Dispatch.lean ====
section
/-! DEFINITION. One arm per constructor of `Instr`: each row of `spec/opcode_table.json` to its meaning. -/

namespace Sys2Proof.Machine

open Sys2Proof

def exec (i : Instr) (s : State) : Host.Outcome State Fault Refusal :=
  match i with
  | .opcSetPixelColors channel dataLen => Sys2Proof.Machine.execOpcSetPixelColors channel dataLen s
  | .opcUnsupported0 channel dataLen => Sys2Proof.Machine.execOpcUnsupported0 channel dataLen s
  | .opcUnsupported1 channel low dataLen => Sys2Proof.Machine.execOpcUnsupported1 channel low dataLen s
  | .opcUnsupported2 channel low dataLen => Sys2Proof.Machine.execOpcUnsupported2 channel low dataLen s
  | .opcUnsupported3 channel low dataLen => Sys2Proof.Machine.execOpcUnsupported3 channel low dataLen s
  | .opcUnsupported4 channel low dataLen => Sys2Proof.Machine.execOpcUnsupported4 channel low dataLen s
  | .opcUnsupported5 channel low dataLen => Sys2Proof.Machine.execOpcUnsupported5 channel low dataLen s
  | .opcUnsupported6 channel low dataLen => Sys2Proof.Machine.execOpcUnsupported6 channel low dataLen s
  | .opcUnsupported7 channel low dataLen => Sys2Proof.Machine.execOpcUnsupported7 channel low dataLen s
  | .encAdalight => Sys2Proof.Machine.execEncAdalight s
  | .encAwa => Sys2Proof.Machine.execEncAwa s
  | .encTpm2 => Sys2Proof.Machine.execEncTpm2 s
  | .pselReserved => Sys2Proof.Machine.execPselReserved s
  | .hsMagic => Sys2Proof.Machine.execHsMagic s
  | .hsMismatch b0 b1 b2 b3 => Sys2Proof.Machine.execHsMismatch b0 b1 b2 b3 s
  | .txAdalightHdr c k => Sys2Proof.Machine.execTxAdalightHdr c k s
  | .txAwaHdr c k => Sys2Proof.Machine.execTxAwaHdr c k s
  | .txAwaFtr f g => Sys2Proof.Machine.execTxAwaFtr f g s
  | .txTpm2Hdr n => Sys2Proof.Machine.execTxTpm2Hdr n s
  | .txTpm2Ftr => Sys2Proof.Machine.execTxTpm2Ftr s

end Sys2Proof.Machine
end

