-- ==== Sys2Proof/Machine/Fetch.lean ====
section
/-! DEFINITION. Where each format's word stands and how it is fetched: the header in `RXBUF` (R81, R196), `PSEL` in
`CFG.PROTOCOL` (R197) or on the strap (R250), the handshake word in `HS_BUF` (R173), an emitted header or footer in `OUTBUF`
at `TX_PTR` (R13 names `TX_PTR` part of the program counter). -/

namespace Sys2Proof.Machine

open Sys2Proof

/-- The instruction in a format's bytes. -/
def decodeWord (f : Format) (bytes : List Byte) : Except Fault Instr :=
  match decode f bytes with
  | .ok (i, _) => .ok i
  | .error _ => .error .undecodable

/-- The header of the datagram in `RXBUF`, its four bytes read at once (log 11). -/
def fetchHeader (s : State) : Except Fault Instr :=
  match loadBytes .rxbuf s.rxbufSize s.rxbuf 0 4 with
  | .ok bytes => decodeWord .opcHdr bytes
  | .error f => .error f

/-- The `PSEL` instruction of two bits. -/
def fetchPsel (p : BitVec 2) : Except Fault Instr := decodeWord .psel [p.setWidth 8]

/-- The four bytes of `HS_BUF`. -/
def fetchHsWord (s : State) : Except Fault Instr :=
  match loadBytes .hsbuf hsBufSize s.hsBuf 0 4 with
  | .ok bytes => decodeWord .hsMagic bytes
  | .error f => .error f

/-- The format of the header or footer that begins at `TX_PTR` and is `k` bytes long, if one does (R67). -/
def emittedFormat (k : Nat) (s : State) : Option Format :=
  match protocolOf s.cfgProtocol with
  | none => none
  | some p =>
    if s.txPtr = 0 ∧ k = (pspec p).headerLen then some (pspec p).headerFormat
    else if s.txPtr.toNat = (pspec p).headerLen + s.fLen.toNat ∧ k = (pspec p).footerLen then
      (pspec p).footerFormat
    else none

/-- The emitted header or footer of `k` bytes at `TX_PTR`, if one stands there. -/
def fetchEmitted (k : Nat) (s : State) : Option Instr :=
  match emittedFormat k s with
  | none => none
  | some f =>
    match loadBytes .outbuf s.outbufSize s.outbuf s.txPtr.toNat k with
    | .error _ => none
    | .ok bytes =>
      match decodeWord f bytes with
      | .ok i => some i
      | .error _ => none

end Sys2Proof.Machine
end

