-- ==== Sys2Proof/Machine/Receive.lean ====
section
/-! DEFINITION. The reception of a datagram: whole (`RX_DATAGRAM`, R191) and beat by beat (`RX_BEAT`, R193). A datagram or
beat the block does not accept has no effect (R192, R202, R230). -/

namespace Sys2Proof.Machine

open Sys2Proof

/-- `RX_DATAGRAM(d)` (R191), enabled iff `HS` = `READY` and `LOOP` = `IDLE`; a longer datagram is cut to `RXBUF_SIZE`
bytes (R194). -/
def rxDatagram (d : List Byte) (s : State) : State :=
  if s.hs = .ready ∧ s.loop = .idle then
    { s with
      rxLen := min d.length s.rxbufSize
      rxbuf := s.rxbuf.writeBytes 0 (d.take s.rxbufSize)
      loop := .decode }
  else s

/-- `dg_ready` (R193): the block takes a beat. -/
def dgReady (s : State) : Bool := s.hs = .ready ∧ (s.loop = .idle ∨ s.loop = .recv)

/-- The byte of a beat put behind those received so far: discarded when the beat carries none or `RXBUF` is full (R193,
R194). -/
def appendBeat (b : Byte) (keep : Bool) (s : State) : State :=
  if keep = true ∧ s.rxLen < s.rxbufSize then
    { s with rxbuf := s.rxbuf.write s.rxLen b, rxLen := s.rxLen + 1 }
  else s

/-- `RX_BEAT(b, keep, last)` (R193), in every place of a datagram (log 12). -/
def rxBeat (b : Byte) (keep last : Bool) (s : State) : State :=
  if dgReady s then
    let s1 := if s.loop = .idle then { s with rxLen := 0 } else s
    { appendBeat b keep s1 with loop := if last then .decode else .recv }
  else s

end Sys2Proof.Machine
end

