-- ==== Sys2Proof/Machine/Loop.lean ====
section
/-! DEFINITION. The control loop and the stimuli (`46_control_loop.md`, `45_handshake.md`): what the block does in its own
turn and at each stimulus, at level T one at a time, at level S all those of one clock edge (R180, R204, R232). -/

namespace Sys2Proof.Machine

open Sys2Proof

/-- `LOOP` = `DECODE` (R196): a datagram too short for a header is rejected without reading a byte (R102), any other runs
the instruction in its header. -/
def decodeTurn (s : State) : Out :=
  if s.rxLen < 4 then .next (raiseError .tooShort s)
  else withAccess (fetchHeader s) fun i => exec i s

/-- `LOOP` = `ENCODE` (R197): the instruction that `CFG.PROTOCOL` selects. The reserved value cannot occur here. -/
def encodeTurn (s : State) : Out :=
  if s.cfgProtocol = 3#2 then .fault .reservedProtocol
  else withAccess (fetchPsel s.cfgProtocol) fun i => exec i s

/-- The block's own turn: `DECODE` or `ENCODE` where `LOOP` asks for it (R196, R197); in any other phase it waits for the
environment (R191, R199, R205). -/
def blockTurn (s : State) : Out :=
  match s.loop with
  | .decode => decodeTurn s
  | .encode => encodeTurn s
  | .idle => .next s
  | .recv => .next s
  | .send => .next s

/-- The byte put into `HS_BUF` and counted (R173). -/
def pushHsByte (b : Byte) (s : State) : Except Fault State :=
  match storeBytes .hsbuf hsBufSize s.hsBuf s.hsCnt.toNat [b] with
  | .ok m => .ok { s with hsBuf := m, hsCnt := s.hsCnt + 1 }
  | .error f => .error f

/-- `HS_RXBYTE(b)` (R173): discarded outside `AWAITING` (R179); the fourth byte runs the handshake word (R174), no
earlier one decides (R181). -/
def hsRxByte (b : Byte) (s : State) : Out :=
  if s.hs = .awaiting then
    withAccess (pushHsByte b s) fun s1 =>
      if s1.hsCnt = 4 then withAccess (fetchHsWord s1) fun i => exec i s1
      else .next s1
  else .next s

/-- `RESET` with the strap inputs at these levels (R250): the reserved selection is the instruction `PSEL.RESERVED`
(R233). -/
def resetStimulus (straps : Straps) (s : State) : Out :=
  if straps.cfgProtocol = 3#2 then
    withAccess (fetchPsel straps.cfgProtocol) fun i => exec i { s with straps := straps }
  else .next (resetWith straps s)

/-- `TXSTEP k` (R95): where an emitted header or footer of `k` bytes stands at `TX_PTR`, that instruction; else `k` times
`TX_BEAT`. -/
def txStep (k : Nat) (s : State) : Out :=
  if s.loop = .send then
    match fetchEmitted k s with
    | some i => exec i s
    | none => txBeats k s
  else .next s

/-- One rising edge of `clk` without reset (R204). The handshake operations first, the byte before the tick (R180), then the
one operation of the control loop that the phase during the cycle and the ports allow (R204 (c), R232); at `DECODE` and
`ENCODE` only if it completes at this edge (R205; log 9). -/
def clockEdge (p : PortIn) (done : Bool) (s : State) : Out :=
  andThen (if p.srxValid then hsRxByte p.srxData s else .next s) fun s1 =>
    let s2 := if p.tickMs then hsTick s1 else s1
    match s.loop with
    | .idle => .next (if p.dgValid && dgReady s then rxBeat p.dgData p.dgKeep p.dgLast s2 else s2)
    | .recv => .next (if p.dgValid && dgReady s then rxBeat p.dgData p.dgKeep p.dgLast s2 else s2)
    | .decode => if done then blockTurn s2 else .next s2
    | .encode => if done then blockTurn s2 else .next s2
    | .send => if p.txReady then txBeat s2 else .next s2

/-- One clock cycle of level S (R203): `rst` overrides everything (R232, R250); the strap inputs stand at the sampled
levels. -/
def clockCycle (p : PortIn) (done : Bool) (s : State) : Out :=
  if p.rst then resetStimulus p.straps s
  else clockEdge p done { s with straps := p.straps }

/-- What the block does at a stimulus (R95, R230). -/
def applyStimulus (e : Stimulus) (s : State) : Out :=
  match e with
  | .turn => blockTurn s
  | .reset straps => resetStimulus straps s
  | .setStraps straps => .next { s with straps := straps }
  | .datagram d => .next (rxDatagram d s)
  | .rxBeat b keep last => .next (rxBeat b keep last s)
  | .srx b => hsRxByte b s
  | .timeout => .next (hsTimeout s)
  | .tick => .next (hsTick s)
  | .txBeat => txBeat s
  | .txStep k => txStep k s
  | .txRun => txRun s
  | .cycle p done => clockCycle p done s

/-- The stimulus the next step takes: the head of the script, or the block's own turn when the environment has nothing. -/
def nextStimulus (s : State) : Stimulus := s.script.headD .turn

/-- One step of the machine: the pulses of the step before go down, then the stimulus acts. -/
def stepBlock (s : State) : Out := applyStimulus (nextStimulus s) s.beginStep

end Sys2Proof.Machine
end

