-- ==== Sys2Proof/Machine/Load.lean ====
section
/-! DEFINITION. How a table word is placed where the next step fetches it, for `State.withFetchWord`. The operand bytes behind
a word (payload, footer) are zeros. -/

namespace Sys2Proof.Machine

open Sys2Proof

/-- A datagram that begins with these four header bytes stands in `RXBUF` at `LOOP` = `DECODE`, its declared payload zeros,
as `RX_DATAGRAM` leaves it (R191). -/
def placeHeader (header : List Byte) (dataLen : Half) (s : State) : State :=
  rxDatagram (header ++ List.replicate (min dataLen.toNat s.rxbufSize) 0#8)
    { s with hs := .ready, loop := .idle, script := [] }

/-- `CFG.PROTOCOL` selects the encoder at `LOOP` = `ENCODE` (R197). -/
def placePsel (p : BitVec 2) (s : State) : State :=
  { s with cfgProtocol := p, hs := .ready, loop := .encode, script := [] }

/-- The reserved selection stands on the strap and `RESET` is what happens next (R233, R250). -/
def placeReserved (s : State) : State :=
  { s with script := [.reset { s.straps with cfgProtocol := 3#2 }] }

/-- Three handshake bytes stand in `HS_BUF` and the fourth is what the serial device delivers next (R173). -/
def placeHsWord (b0 b1 b2 b3 : Byte) (s : State) : State :=
  { s with hs := .awaiting, hsBuf := s.hsBuf.writeBytes 0 [b0, b1, b2], hsCnt := 3, script := [.srx b3] }

/-- An emitted word stands in `OUTBUF` at `TX_PTR`, in the frame of an empty payload under its protocol, and the
transmitter takes exactly its bytes next (R67, R95, R199). -/
def placeEmitted (p : BitVec 2) (a length : Nat) (w : List Byte) (s : State) : State :=
  { s with
    cfgProtocol := p
    hs := .ready
    loop := .send
    fLen := 0
    outbuf := s.outbuf.writeBytes a (w ++ List.replicate (length - (a + w.length)) 0#8)
    outLen := BitVec.ofNat 17 length
    txPtr := BitVec.ofNat 17 a
    script := [.txStep w.length] }

/-- The instruction's word placed where the next step fetches it. -/
def placeInstr (i : Instr) (s : State) : State :=
  match i with
  | .opcSetPixelColors _ n => placeHeader (encode i) n s
  | .opcUnsupported0 _ n => placeHeader (encode i) n s
  | .opcUnsupported1 _ _ n => placeHeader (encode i) n s
  | .opcUnsupported2 _ _ n => placeHeader (encode i) n s
  | .opcUnsupported3 _ _ n => placeHeader (encode i) n s
  | .opcUnsupported4 _ _ n => placeHeader (encode i) n s
  | .opcUnsupported5 _ _ n => placeHeader (encode i) n s
  | .opcUnsupported6 _ _ n => placeHeader (encode i) n s
  | .opcUnsupported7 _ _ n => placeHeader (encode i) n s
  | .encAdalight => placePsel 0#2 s
  | .encAwa => placePsel 1#2 s
  | .encTpm2 => placePsel 2#2 s
  | .pselReserved => placeReserved s
  | .hsMagic => placeHsWord 0x41#8 0x64#8 0x61#8 0x0A#8 s
  | .hsMismatch b0 b1 b2 b3 => placeHsWord b0 b1 b2 b3 s
  | .txAdalightHdr _ _ => placeEmitted 0#2 0 6 (encode i) s
  | .txAwaHdr _ _ => placeEmitted 1#2 0 8 (encode i) s
  | .txAwaFtr _ _ => placeEmitted 1#2 6 8 (encode i) s
  | .txTpm2Hdr _ => placeEmitted 2#2 0 5 (encode i) s
  | .txTpm2Ftr => placeEmitted 2#2 4 5 (encode i) s

/-- The table word placed, in the stream its row's format names (`tableFormats`; log 7). -/
def placeWord (nbits w : Nat) (s : State) : State :=
  match decodeTableWord nbits w with
  | some i => placeInstr i s
  | none => s

end Sys2Proof.Machine
end

