-- ==== Sys2Proof/Machine/Step.lean ====
section
/-! DEFINITION. One step of the machine, and a table word placed where the next step runs it. -/

namespace Sys2Proof.Machine

open Sys2Proof

/-- One step: the next stimulus of the script, or the block's own turn (`Machine/Loop.lean`). -/
def step (s : State) : Host.Outcome State Fault Refusal := stepBlock s

/-- `s` with the table word stored where `step` fetches its next instruction (`Machine/Load.lean`). Log 17. -/
def State.withFetchWord (s : State) (nbits w : Nat) : State := placeWord nbits w s

end Sys2Proof.Machine
end

