-- ==== Sys2Proof/Machine/Ports.lean ====
section
/-! DEFINITION. The output ports of level S (R203) as functions of the state, and the observation of R39. -/

namespace Sys2Proof.Machine

open Sys2Proof

/-- The output ports (R203). -/
structure PortOut where
  dgReady : Bool
  txValid : Bool
  /-- `OUTBUF[TX_PTR]` while a byte is offered; no value otherwise (log 21). -/
  txData : Option Byte
  /-- The sideband of R198; low while no byte is offered (log 21). -/
  txLast : Bool
  hsState : BitVec 2
  hsCause : BitVec 3
  sessionAbort : Bool
  busy : Bool
  errCode : BitVec 4
  warn3 : Bool
  evtAccept : Bool
  evtDrop : Bool
  evtWarn : Bool
  evtSent : Bool
  deriving DecidableEq, Repr

/-- `session_abort` (R38, R178): the level `HS` = `FAILED`. -/
def sessionAbort (s : State) : Bool := s.hs = .failed

/-- `busy` (R203). -/
def busy (s : State) : Bool := s.loop ≠ .idle

/-- `tx_valid` (R198, R203). -/
def txValid (s : State) : Bool := s.loop = .send

/-- `tx_data` (R198): `OUTBUF[TX_PTR]` in `SEND`. DESIGN CHOICE (log 21): no value in any other phase, where R198 gives none and
P6 shows `-`, also over an `OUTBUF` cell that still holds a byte (D25). -/
def txData (s : State) : Option Byte :=
  if s.loop = .send then s.outbuf.read s.txPtr.toNat else none

/-- `tx_last` (R198): in `SEND`, the byte offered is the last of the OutputBuffer. DESIGN CHOICE (log 21): 0 in any other phase,
where R198 gives no value. -/
def txLast (s : State) : Bool := s.loop = .send ∧ s.txPtr.toNat + 1 = s.outLen.toNat

/-- What the block drives on its ports (R203). -/
def outputs (s : State) : PortOut where
  dgReady := Machine.dgReady s
  txValid := Machine.txValid s
  txData := Machine.txData s
  txLast := Machine.txLast s
  hsState := s.hs.code
  hsCause := s.hsCause.code
  sessionAbort := Machine.sessionAbort s
  busy := Machine.busy s
  errCode := s.statusErr.code
  warn3 := s.statusWarn3
  evtAccept := s.pulses.accept
  evtDrop := s.pulses.drop
  evtWarn := s.pulses.warn
  evtSent := s.pulses.sent

/-- What an observer outside the block can see (R39): the transmit stream and the events (the frame boundaries are the
`sent` events), the handshake state and cause, and whether a datagram is taken. -/
structure Observation where
  tx : List Byte
  events : List Event
  hs : HandshakeState
  hsCause : HsCause
  dgReady : Bool
  deriving DecidableEq, Repr

/-- The observation of a state (R39). -/
def observe (s : State) : Observation where
  tx := s.tx
  events := s.events
  hs := s.hs
  hsCause := s.hsCause
  dgReady := Machine.dgReady s

end Sys2Proof.Machine
end

