-- ==== Sys2Proof/Safety.lean ====
section
/-! DEFINITION. The terms the statements are made in: the spec's functions written a second time in closed form (R89, R90,
R133, R101), the shape of a rejected datagram (R224), which stimuli reset (R250), and the invariant that every state after a
reset meets. Nothing of the machine reads this file. -/

namespace Sys2Proof.Safety

open Sys2Proof Sys2Proof.Machine

/-! ### The frames in closed form -/

/-- `(sum of p[i]) mod 255` (R133). -/
def byteSum (p : List Byte) : Nat := (p.map BitVec.toNat).sum

/-- `sum over i of (n - i) * p[i]` (R133). -/
def weightedSum : List Byte → Nat
  | [] => 0
  | b :: bs => (bs.length + 1) * b.toNat + weightedSum bs

/-- `(n div 3 - 1) mod 2^16` (R90). -/
def countOf (n : Nat) : Nat := (n / 3 + 65535) % 65536

/-- An Adalight or AWA header for `n` payload bytes (R86, R87): magic, count field, XOR checksum. -/
def headerOf (magic1 : Byte) (n : Nat) : List Byte :=
  let h := BitVec.ofNat 8 (countOf n / 256)
  let l := BitVec.ofNat 8 (countOf n % 256)
  [0x41#8, magic1, 0x61#8, h, l, h ^^^ l ^^^ 0x55#8]

/-- The OutputBuffer for a payload (R86 to R88). -/
def frameOf (p : Protocol) (payload : List Byte) : List Byte :=
  match p with
  | .adalight => headerOf 0x64#8 payload.length ++ payload
  | .awa =>
    headerOf 0x77#8 payload.length ++ payload ++
      [BitVec.ofNat 8 (byteSum payload % 255), BitVec.ofNat 8 (weightedSum payload % 255)]
  | .tpm2 =>
    [0xC9#8, 0xDA#8, BitVec.ofNat 8 (payload.length / 256), BitVec.ofNat 8 (payload.length % 256)] ++
      payload ++ [0x36#8]

/-- What becomes of one datagram (R101 to R109, R144, R153, R162): one of the five errors, or the frame of its payload. The
length tested is the datagram's own, before any cut (R194). -/
def datagramFrame (rxbufSize : Nat) (filter : Byte) (p : Protocol) (d : List Byte) : Except ErrCode (List Byte) :=
  match d with
  | channel :: command :: h :: l :: rest =>
    let n := h.toNat * 256 + l.toNat
    if channel ≠ 0#8 ∧ channel ≠ filter then .error .channelMismatch
    else if command ≠ 0#8 then .error .unsupportedCommand
    else if rxbufSize < 4 + n then .error .payloadTooLarge
    else if d.length < 4 + n then .error .truncatedPayload
    else .ok (frameOf p (rest.take n))
  | _ => .error .tooShort

/-- The verdict of `DECODE` on a header (R101, R223). -/
def verdictOf (rxbufSize rxLen : Nat) (filter channel command : Byte) (dataLen : Nat) : ErrCode :=
  if rxLen < 4 then .tooShort
  else if channel ≠ 0#8 ∧ channel ≠ filter then .channelMismatch
  else if command ≠ 0#8 then .unsupportedCommand
  else if rxbufSize < 4 + dataLen then .payloadTooLarge
  else if rxLen < 4 + dataLen then .truncatedPayload
  else .ok

/-! ### Instructions by their header -/

/-- The header an `OPC_HDR` instruction stands for: channel, command, length (R81, R82). None for any other row. -/
def opcFields : Instr → Option (Byte × Byte × Half)
  | .opcSetPixelColors channel dataLen => some (channel, 0x00#8, dataLen)
  | .opcUnsupported0 channel dataLen => some (channel, 0x01#8, dataLen)
  | .opcUnsupported1 channel low dataLen => some (channel, BitVec.ofNat 8 (0x02 + low.toNat), dataLen)
  | .opcUnsupported2 channel low dataLen => some (channel, BitVec.ofNat 8 (0x04 + low.toNat), dataLen)
  | .opcUnsupported3 channel low dataLen => some (channel, BitVec.ofNat 8 (0x08 + low.toNat), dataLen)
  | .opcUnsupported4 channel low dataLen => some (channel, BitVec.ofNat 8 (0x10 + low.toNat), dataLen)
  | .opcUnsupported5 channel low dataLen => some (channel, BitVec.ofNat 8 (0x20 + low.toNat), dataLen)
  | .opcUnsupported6 channel low dataLen => some (channel, BitVec.ofNat 8 (0x40 + low.toNat), dataLen)
  | .opcUnsupported7 channel low dataLen => some (channel, BitVec.ofNat 8 (0x80 + low.toNat), dataLen)
  | .encAdalight => none
  | .encAwa => none
  | .encTpm2 => none
  | .pselReserved => none
  | .hsMagic => none
  | .hsMismatch _ _ _ _ => none
  | .txAdalightHdr _ _ => none
  | .txAwaHdr _ _ => none
  | .txAwaFtr _ _ => none
  | .txTpm2Hdr _ => none
  | .txTpm2Ftr => none

/-- The bytes of an emitted row's word and the index in `OUTBUF` where it stands for `n` payload bytes (R67). None for any
other row. -/
def emittedWord (n : Nat) : Instr → Option (Nat × List Byte)
  | .txAdalightHdr c k => some (0, [0x41#8, 0x64#8, 0x61#8, hiByte c, loByte c, k])
  | .txAwaHdr c k => some (0, [0x41#8, 0x77#8, 0x61#8, hiByte c, loByte c, k])
  | .txAwaFtr f g => some (6 + n, [f, g])
  | .txTpm2Hdr m => some (0, [0xC9#8, 0xDA#8, hiByte m, loByte m])
  | .txTpm2Ftr => some (4 + n, [0x36#8])
  | .opcSetPixelColors _ _ => none
  | .opcUnsupported0 _ _ => none
  | .opcUnsupported1 _ _ _ => none
  | .opcUnsupported2 _ _ _ => none
  | .opcUnsupported3 _ _ _ => none
  | .opcUnsupported4 _ _ _ => none
  | .opcUnsupported5 _ _ _ => none
  | .opcUnsupported6 _ _ _ => none
  | .opcUnsupported7 _ _ _ => none
  | .encAdalight => none
  | .encAwa => none
  | .encTpm2 => none
  | .pselReserved => none
  | .hsMagic => none
  | .hsMismatch _ _ _ _ => none

/-- A datagram dropped with an error (R224): the code, the event, `IDLE`, and nothing else. -/
def dropped (e : ErrCode) (s : State) : State :=
  { s with
    statusErr := e
    loop := .idle
    events := s.events ++ [.drop e]
    pulses := { s.pulses with drop := true } }

/-! ### Stimuli -/

/-- The stimulus performs `RESET` (R250): the level-T event, or a clock cycle with `rst` = 1. -/
def isReset : Stimulus → Bool
  | .reset _ => true
  | .cycle p _ => p.rst
  | _ => false

/-- The run of a finite script has ended (R207). -/
def quiescent (s : State) : Bool :=
  s.script.isEmpty && (s.loop = .idle || s.hs ≠ .ready)

/-! ### The invariant -/

/-- The bytes at indices 0 to `n - 1` are written. -/
def written (m : Mem) (n : Nat) : Prop := ∀ i < n, (m.read i).isSome = true

/-- The buffer is in canonical form and holds nothing at or beyond its size (R43, R68). -/
def bufferOk (size : Nat) (m : Mem) : Prop := m.wf ∧ ∀ c ∈ m.cells, c.1 < size

/-- The four bytes of `HS_BUF` are the magic (R175). -/
def holdsMagic (m : Mem) : Prop :=
  m.read 0 = some 0x41#8 ∧ m.read 1 = some 0x64#8 ∧ m.read 2 = some 0x61#8 ∧ m.read 3 = some 0x0A#8

/-- What each value of `HS` says of the rest of the state (R27, R28, R29, R170, R192, R228, R233). -/
def handshakeOk (s : State) : Prop :=
  match s.hs with
  | .awaiting =>
    s.cfgProtocol = 0#2 ∧ s.hsCause = .noCause ∧ s.loop = .idle ∧ s.tx = [] ∧ s.hsCnt.toNat < 4 ∧
      written s.hsBuf s.hsCnt.toNat ∧ (s.hsTimer = 0#16 ∨ s.hsTimer.toNat < s.cfgHsTimeoutMs.toNat)
  | .ready =>
    s.cfgProtocol ≠ 3#2 ∧ s.hsCause = .noCause ∧
      (s.cfgProtocol = 0#2 → s.hsCnt = 4#3 ∧ holdsMagic s.hsBuf)
  | .failed =>
    s.hsCause ≠ .noCause ∧ (s.hsCause = .cfgInvalid ↔ s.cfgProtocol = 3#2) ∧
      (s.hsCause ≠ .cfgInvalid → s.cfgProtocol = 0#2) ∧ s.loop = .idle ∧ s.tx = []

/-- `RX_LEN` bytes are held (R31). -/
def receptionOk (s : State) : Prop := s.rxLen ≤ s.rxbufSize ∧ written s.rxbuf s.rxLen

/-- A frame is accepted: what a successful `DECODE` established (R32, R108). -/
def acceptedOk (s : State) : Prop :=
  s.fCommand = 0#8 ∧ (s.fChannel = 0#8 ∨ s.fChannel = s.cfgChannel) ∧ 4 + s.fLen.toNat ≤ s.rxLen ∧
    s.statusErr = .ok ∧ s.statusWarn3 = decide (s.fLen.toNat % 3 ≠ 0)

/-- `OUTBUF` holds the frame of the payload in `RXBUF`, its first `TX_PTR` bytes have been sent and at least one has not
(R67, R198, R206). -/
def sendingOk (s : State) : Prop :=
  ∃ p payload sentBefore,
    protocolOf s.cfgProtocol = some p ∧ s.payload = .ok payload ∧
      s.outLen.toNat = (frameOf p payload).length ∧ s.txPtr.toNat < s.outLen.toNat ∧
      (∀ i < s.outLen.toNat, s.outbuf.read i = (frameOf p payload)[i]?) ∧
      s.tx = sentBefore ++ (frameOf p payload).take s.txPtr.toNat

/-- The invariant of the block: it holds after every `RESET` and every step keeps it. -/
structure Inv (s : State) : Prop where
  /-- R7. -/
  size : 4 ≤ s.rxbufSize
  rxbuf : bufferOk s.rxbufSize s.rxbuf
  outbuf : bufferOk s.outbufSize s.outbuf
  hsBuf : bufferOk hsBufSize s.hsBuf
  handshake : handshakeOk s
  reception : receptionOk s
  /-- R34, R133. -/
  fletcher : s.fl1.toNat ≤ 254 ∧ s.fl2.toNat ≤ 254
  accepted : s.loop = .encode ∨ s.loop = .send → acceptedOk s
  sending : s.loop = .send → sendingOk s

end Sys2Proof.Safety
end

