-- ==== Sys2Proof/WellFormed.lean ====
section
/-! DEFINITION. Which terms of `Instr` stand for a word the spec admits. The operand widths are in the types; what is left
are the relations between fields that R92, R86, R87, R90 and R133 state. -/

namespace Sys2Proof

/-- The handshake word is not the magic: `HS.MISMATCH` applies only when `HS.MAGIC` does not match (R97, R174). -/
def Instr.notMagic (b0 b1 b2 b3 : Byte) : Bool :=
  !(b0 == 0x41#8 && b1 == 0x64#8 && b2 == 0x61#8 && b3 == 0x0A#8)

/-- The receiver's check of an Adalight or AWA header (R131). -/
def Instr.headerChecks (c : Half) (k : Byte) : Bool :=
  k ^^^ c.extractLsb' 8 8 ^^^ c.extractLsb' 0 8 == 0x55#8

/-- The range of the count field: 0 to 0x5554, or 0xFFFF for a payload of fewer than 3 bytes (R90). -/
def Instr.countInRange (c : Half) : Bool :=
  c.toNat ≤ 0x5554 || c == 0xFFFF#16

/-- A Fletcher sum is 0 to 254 (R133). -/
def Instr.fletcherInRange (f : Byte) : Bool :=
  f != 0xFF#8

/-- The word the term stands for is one the spec admits. -/
def Instr.wellFormed : Instr → Bool
  | .opcSetPixelColors _ _ => true
  | .opcUnsupported0 _ _ => true
  | .opcUnsupported1 _ _ _ => true
  | .opcUnsupported2 _ _ _ => true
  | .opcUnsupported3 _ _ _ => true
  | .opcUnsupported4 _ _ _ => true
  | .opcUnsupported5 _ _ _ => true
  | .opcUnsupported6 _ _ _ => true
  | .opcUnsupported7 _ _ _ => true
  | .encAdalight => true
  | .encAwa => true
  | .encTpm2 => true
  | .pselReserved => true
  | .hsMagic => true
  | .hsMismatch b0 b1 b2 b3 => Instr.notMagic b0 b1 b2 b3
  | .txAdalightHdr c k => Instr.headerChecks c k && Instr.countInRange c
  | .txAwaHdr c k => Instr.headerChecks c k && Instr.countInRange c
  | .txAwaFtr f g => Instr.fletcherInRange f && Instr.fletcherInRange g
  | .txTpm2Hdr _ => true
  | .txTpm2Ftr => true

end Sys2Proof
end

