-- ==== Sys2Proof/Certificates/Slice0/Obligations.lean ====
section
/-! DEFINITION. The statements for the provers. Each docstring names the rule it formalises; where a clause rests on a choice
the spec marks as its own (`92_eei_decisions.md`, D<n>) or on a choice of this model (`notes/assumptions`, log <n>), it says so. -/

open Sys2Proof Sys2Proof.Machine Sys2Proof.Safety

/-! ### Encoding -/

/-- Decoding the word of a well-formed instruction gives it back, whatever bytes follow: no bit of an encoding is dropped
(R81, R85 to R88, R92). -/
def Obligations.DecodeGivesBackEncoded : Prop :=
  ∀ (i : Instr) (rest : List Byte), i.wellFormed = true →
    decode i.format (encode i ++ rest) = .ok (i, rest)

/-- What the decoder reads is the word it read: the other direction of the round trip. -/
def Obligations.EncodeGivesBackDecoded : Prop :=
  ∀ (f : Format) (bytes rest : List Byte) (i : Instr),
    decode f bytes = .ok (i, rest) → i.format = f ∧ encode i ++ rest = bytes

/-- The nine `OPC_HDR` rows of the opcode table split the headers by their match and mask (R82, R97): a header decodes to
a row exactly when (word & mask) = match. -/
def Obligations.OpcRowsMatchTheirMask : Prop :=
  ∀ channel command h l : Byte,
    let w : BitVec 32 := channel ++ command ++ h ++ l
    let i := decodeOpc channel command (be16 h l)
    decode .opcHdr [channel, command, h, l] = .ok (i, []) ∧
    ((w &&& 0x00FF0000#32 = 0x00000000#32) ↔ i = .opcSetPixelColors channel (be16 h l)) ∧
    ((w &&& 0x00FF0000#32 = 0x00010000#32) ↔ i = .opcUnsupported0 channel (be16 h l)) ∧
    ((w &&& 0x00FE0000#32 = 0x00020000#32) ↔ ∃ low, i = .opcUnsupported1 channel low (be16 h l)) ∧
    ((w &&& 0x00FC0000#32 = 0x00040000#32) ↔ ∃ low, i = .opcUnsupported2 channel low (be16 h l)) ∧
    ((w &&& 0x00F80000#32 = 0x00080000#32) ↔ ∃ low, i = .opcUnsupported3 channel low (be16 h l)) ∧
    ((w &&& 0x00F00000#32 = 0x00100000#32) ↔ ∃ low, i = .opcUnsupported4 channel low (be16 h l)) ∧
    ((w &&& 0x00E00000#32 = 0x00200000#32) ↔ ∃ low, i = .opcUnsupported5 channel low (be16 h l)) ∧
    ((w &&& 0x00C00000#32 = 0x00400000#32) ↔ ∃ low, i = .opcUnsupported6 channel low (be16 h l)) ∧
    ((w &&& 0x00800000#32 = 0x00800000#32) ↔ ∃ low, i = .opcUnsupported7 channel low (be16 h l))

/-- Words written out from the spec's encodings decode to the instructions they stand for (R81, R85 to R88, R92). -/
def Obligations.WrittenWordsDecode : Prop :=
  decode .opcHdr [0x00#8, 0x00#8, 0x00#8, 0x06#8] = .ok (.opcSetPixelColors 0x00#8 0x0006#16, []) ∧
  decode .opcHdr [0x02#8, 0x01#8, 0x03#8, 0xFC#8] = .ok (.opcUnsupported0 0x02#8 0x03FC#16, []) ∧
  decode .opcHdr [0x00#8, 0xFF#8, 0x00#8, 0x00#8] = .ok (.opcUnsupported7 0x00#8 0x7F#7 0x0000#16, []) ∧
  decode .psel [0x02#8] = .ok (.encTpm2, []) ∧
  decode .hsMagic [0x41#8, 0x64#8, 0x61#8, 0x0A#8] = .ok (.hsMagic, []) ∧
  decode .hsMagic [0x41#8, 0x64#8, 0x61#8, 0x58#8] = .ok (.hsMismatch 0x41#8 0x64#8 0x61#8 0x58#8, []) ∧
  decode .adaHdr [0x41#8, 0x64#8, 0x61#8, 0x00#8, 0x01#8, 0x54#8] = .ok (.txAdalightHdr 0x0001#16 0x54#8, []) ∧
  decode .tpm2Hdr [0xC9#8, 0xDA#8, 0x03#8, 0x00#8] = .ok (.txTpm2Hdr 0x0300#16, [])

/-! ### The step runs the decoded instruction -/

/-- In the block's own turn the step runs the instruction in the header of `RXBUF` while `LOOP` = `DECODE` (R196), and the
one that `CFG.PROTOCOL` selects while `LOOP` = `ENCODE` (R197). Around it the step lowers the pulses of the step before and
takes the turn off the script (`beginStep`). -/
def Obligations.StepRunsFetchedInstruction : Prop :=
  ∀ (s : State) (i : Instr), (s.script = [] ∨ s.script.head? = some .turn) →
    (∀ b0 b1 b2 b3 : Byte, s.loop = .decode → 4 ≤ s.rxLen → s.rxLen ≤ s.rxbufSize →
      s.rxbuf.read 0 = some b0 → s.rxbuf.read 1 = some b1 → s.rxbuf.read 2 = some b2 → s.rxbuf.read 3 = some b3 →
      decode .opcHdr [b0, b1, b2, b3] = .ok (i, []) → step s = exec i s.beginStep) ∧
    (s.loop = .encode → s.cfgProtocol ≠ 3#2 →
      decode .psel [s.cfgProtocol.setWidth 8] = .ok (i, []) → step s = exec i s.beginStep)

/-- Where a stimulus completes a word, the step runs it: the fourth handshake byte (R173), the reserved strap at `RESET`
(R233, R250), an emitted header or footer that the transmitter takes whole (R95; log 6). -/
def Obligations.StepRunsStimulusInstruction : Prop :=
  ∀ (s : State) (i : Instr),
    (∀ b0 b1 b2 b3 : Byte, s.script.head? = some (.srx b3) → s.hs = .awaiting → s.hsCnt = 3#3 →
      s.hsBuf.read 0 = some b0 → s.hsBuf.read 1 = some b1 → s.hsBuf.read 2 = some b2 →
      decode .hsMagic [b0, b1, b2, b3] = .ok (i, []) →
      step s = exec i { s.beginStep with hsBuf := s.hsBuf.write 3 b3, hsCnt := 4#3 }) ∧
    (∀ straps : Straps, s.script.head? = some (.reset straps) → straps.cfgProtocol = 3#2 →
      step s = exec .pselReserved { s.beginStep with straps := straps }) ∧
    (∀ (p : Protocol) (bytes : List Byte), s.script.head? = some (.txStep bytes.length) → s.loop = .send →
      protocolOf s.cfgProtocol = some p → s.txPtr = 0#17 → bytes.length = (pspec p).headerLen →
      bytes.length ≤ s.outbufSize → (∀ j < bytes.length, s.outbuf.read j = bytes[j]?) →
      decode (pspec p).headerFormat bytes = .ok (i, []) → step s = exec i s.beginStep) ∧
    (∀ (p : Protocol) (f : Format) (bytes : List Byte), s.script.head? = some (.txStep bytes.length) →
      s.loop = .send → protocolOf s.cfgProtocol = some p → (pspec p).footerFormat = some f →
      s.txPtr.toNat = (pspec p).headerLen + s.fLen.toNat → bytes.length = (pspec p).footerLen →
      s.txPtr.toNat + bytes.length ≤ s.outbufSize →
      (∀ j < bytes.length, s.outbuf.read (s.txPtr.toNat + j) = bytes[j]?) →
      decode f bytes = .ok (i, []) → step s = exec i s.beginStep)

/-! ### DECODE -/

/-- R102: a datagram of 0 to 3 bytes is rejected with `TooShort` whatever `RXBUF` holds or does not hold, by the block's turn
and by every `OPC_HDR` instruction. -/
def Obligations.ShortDatagramIsTooShort : Prop :=
  ∀ s : State, s.loop = .decode → s.rxLen < 4 →
    blockTurn s = .next (dropped .tooShort s) ∧
    ∀ (i : Instr) (channel command : Byte) (dataLen : Half),
      opcFields i = some (channel, command, dataLen) → exec i s = .next (dropped .tooShort s)

/-- R103: with a header present, `ChannelMismatch` is raised exactly for a channel that is neither 0 nor `CFG.CHANNEL`, so the
accepted channels are exactly those two and 0 is accepted whatever the filter; `F_CHANNEL` then holds the offending channel,
the datagram is dropped and the loop is back in `IDLE`. -/
def Obligations.ForeignChannelIsDropped : Prop :=
  ∀ (s : State) (i : Instr) (channel command : Byte) (dataLen : Half),
    opcFields i = some (channel, command, dataLen) → s.loop = .decode → 4 ≤ s.rxLen →
    ((channel ≠ 0#8 ∧ channel ≠ s.cfgChannel) →
      exec i s = .next (dropped .channelMismatch { s with fChannel := channel })) ∧
    (∀ t, exec i s = .next t → (t.statusErr = .channelMismatch ↔ channel ≠ 0#8 ∧ channel ≠ s.cfgChannel))

/-- R104: behind the channel check, each of the eight rows `OPC.UNSUPPORTED.0` to `.7` raises `UnsupportedCommand` with the
offending command in `F_COMMAND`; and an `OPC_HDR` instruction with a header present raises it exactly when its channel passes
and its command is not `SET_PIXEL_COLORS` = 0. -/
def Obligations.UnsupportedCommandIsDropped : Prop :=
  ∀ (s : State) (channel : Byte) (dataLen : Half), s.loop = .decode → 4 ≤ s.rxLen →
    (channel = 0#8 ∨ channel = s.cfgChannel) →
    let result (command : Nat) : Out :=
      .next (dropped .unsupportedCommand { s with fChannel := channel, fCommand := BitVec.ofNat 8 command })
    exec (.opcUnsupported0 channel dataLen) s = result 1 ∧
    (∀ low, exec (.opcUnsupported1 channel low dataLen) s = result (2 + low.toNat)) ∧
    (∀ low, exec (.opcUnsupported2 channel low dataLen) s = result (4 + low.toNat)) ∧
    (∀ low, exec (.opcUnsupported3 channel low dataLen) s = result (8 + low.toNat)) ∧
    (∀ low, exec (.opcUnsupported4 channel low dataLen) s = result (16 + low.toNat)) ∧
    (∀ low, exec (.opcUnsupported5 channel low dataLen) s = result (32 + low.toNat)) ∧
    (∀ low, exec (.opcUnsupported6 channel low dataLen) s = result (64 + low.toNat)) ∧
    (∀ low, exec (.opcUnsupported7 channel low dataLen) s = result (128 + low.toNat)) ∧
    ∀ (i : Instr) (channel command : Byte) (dataLen : Half) (t : State),
      opcFields i = some (channel, command, dataLen) → exec i s = .next t →
      (t.statusErr = .unsupportedCommand ↔ (channel = 0#8 ∨ channel = s.cfgChannel) ∧ command ≠ 0#8)

/-- R108 and R109: `OPC.SET_PIXEL_COLORS` that passes every check completes with exactly this state; `4 + dataLen` is not
wrapped (R83). The warning bit's independence of the protocol is the spec's own choice D9. -/
def Obligations.SetPixelColorsIsAccepted : Prop :=
  ∀ (s : State) (channel : Byte) (dataLen : Half), s.loop = .decode →
    (channel = 0#8 ∨ channel = s.cfgChannel) → 4 + dataLen.toNat ≤ s.rxbufSize → 4 + dataLen.toNat ≤ s.rxLen →
    exec (.opcSetPixelColors channel dataLen) s =
      .next
        { s with
          fChannel := channel
          fCommand := 0#8
          fLen := dataLen
          statusErr := .ok
          statusWarn3 := decide (dataLen.toNat % 3 ≠ 0)
          loop := .encode
          events := s.events ++ (if dataLen.toNat % 3 = 0 then [.accept] else [.accept, .warn])
          pulses :=
            { s.pulses with
              accept := true
              warn := s.pulses.warn || decide (dataLen.toNat % 3 ≠ 0) } }

/-- R106: behind the channel check, `OPC.SET_PIXEL_COLORS` raises `PayloadTooLarge` when `4 + dataLen` exceeds `RXBUF_SIZE`,
whatever the datagram's length (so before `TruncatedPayload`); equality passes; with `RXBUF_SIZE` of 65539 or more no `OPC_HDR`
instruction raises it. `F_LEN` is written (R105). -/
def Obligations.OversizedPayloadIsDropped : Prop :=
  ∀ (s : State) (channel : Byte) (dataLen : Half), s.loop = .decode → 4 ≤ s.rxLen →
    (channel = 0#8 ∨ channel = s.cfgChannel) →
    (s.rxbufSize < 4 + dataLen.toNat →
      exec (.opcSetPixelColors channel dataLen) s =
        .next (dropped .payloadTooLarge { s with fChannel := channel, fCommand := 0#8, fLen := dataLen })) ∧
    (∀ t, exec (.opcSetPixelColors channel dataLen) s = .next t →
      (t.statusErr = .payloadTooLarge ↔ s.rxbufSize < 4 + dataLen.toNat)) ∧
    (∀ (i : Instr) (channel command : Byte) (dataLen : Half) (t : State), 65539 ≤ s.rxbufSize →
      opcFields i = some (channel, command, dataLen) → exec i s = .next t → t.statusErr ≠ .payloadTooLarge)

/-- R107: behind the capacity guard, `OPC.SET_PIXEL_COLORS` raises `TruncatedPayload` exactly when `4 + dataLen` exceeds
`RX_LEN`; equality passes. `F_LEN` is written (R105). -/
def Obligations.TruncatedPayloadIsDropped : Prop :=
  ∀ (s : State) (channel : Byte) (dataLen : Half), s.loop = .decode → 4 ≤ s.rxLen →
    (channel = 0#8 ∨ channel = s.cfgChannel) → 4 + dataLen.toNat ≤ s.rxbufSize →
    (s.rxLen < 4 + dataLen.toNat →
      exec (.opcSetPixelColors channel dataLen) s =
        .next (dropped .truncatedPayload { s with fChannel := channel, fCommand := 0#8, fLen := dataLen })) ∧
    (∀ t, exec (.opcSetPixelColors channel dataLen) s = .next t →
      (t.statusErr = .truncatedPayload ↔ s.rxLen < 4 + dataLen.toNat))

/-- R112 with the priority of R223 (the spec's own choice D7): every header gets exactly one verdict, the one of `verdictOf`,
records exactly one `accept` or `drop`, and goes to `ENCODE` if the verdict is OK and to `IDLE` if not. -/
def Obligations.EveryHeaderHasOneVerdict : Prop :=
  ∀ (s : State) (i : Instr) (channel command : Byte) (dataLen : Half),
    opcFields i = some (channel, command, dataLen) → s.loop = .decode →
    let verdict := verdictOf s.rxbufSize s.rxLen s.cfgChannel channel command dataLen.toNat
    ∃ t, exec i s = .next t ∧ t.statusErr = verdict ∧
      t.loop = (if verdict = .ok then .encode else .idle) ∧
      t.events = s.events ++
        (if verdict = .ok then (if dataLen.toNat % 3 = 0 then [.accept] else [.accept, .warn])
         else [.drop verdict])

/-- R110: `DECODE` writes only the frame registers, `STATUS`, `LOOP` and the events; every buffer byte reads as before; and its
verdict is a function of the header, `RX_LEN`, `CFG.CHANNEL` and `RXBUF_SIZE` alone. Holds for all nine `OPC_HDR` rows. -/
def Obligations.DecodeIsPure : Prop :=
  ∀ (s : State) (i : Instr) (channel command : Byte) (dataLen : Half),
    opcFields i = some (channel, command, dataLen) →
    (∀ t, exec i s = .next t →
      t = { s with
            fChannel := t.fChannel, fCommand := t.fCommand, fLen := t.fLen, statusErr := t.statusErr
            statusWarn3 := t.statusWarn3, loop := t.loop, events := t.events, pulses := t.pulses } ∧
      (∀ a, t.rxbuf.read a = s.rxbuf.read a ∧ t.outbuf.read a = s.outbuf.read a ∧ t.hsBuf.read a = s.hsBuf.read a)) ∧
    (∀ s' t t', s.loop = .decode → s'.loop = .decode → s'.rxLen = s.rxLen → s'.cfgChannel = s.cfgChannel →
      s'.rxbufSize = s.rxbufSize → exec i s = .next t → exec i s' = .next t' →
      t'.statusErr = t.statusErr ∧ t'.loop = t.loop)

/-- R224 and R221: whatever error an `OPC_HDR` instruction raises, `STATUS.ERR` takes it, `evt_drop` is signalled, `LOOP` goes
to `IDLE`, the frame registers hold what R221's last column says, and nothing else changes: not `STATUS.WARN3`, not `TX`, not
a buffer byte. -/
def Obligations.RaiseChangesNothingElse : Prop :=
  ∀ (s t : State) (i : Instr) (channel command : Byte) (dataLen : Half),
    opcFields i = some (channel, command, dataLen) → s.loop = .decode → exec i s = .next t → t.statusErr ≠ .ok →
    t = { s with
          statusErr := t.statusErr
          loop := .idle
          events := s.events ++ [.drop t.statusErr]
          pulses := { s.pulses with drop := true }
          fChannel := if t.statusErr = .tooShort then s.fChannel else channel
          fCommand :=
            if t.statusErr = .tooShort ∨ t.statusErr = .channelMismatch then s.fCommand else command
          fLen :=
            if t.statusErr = .payloadTooLarge ∨ t.statusErr = .truncatedPayload then dataLen else s.fLen }

/-- R194 (an inference the spec marks as its own): cutting an over-long datagram to `RXBUF_SIZE` bytes changes no verdict. -/
def Obligations.CutDatagramKeepsVerdict : Prop :=
  ∀ (s t t' : State) (i : Instr) (channel command : Byte) (dataLen : Half),
    opcFields i = some (channel, command, dataLen) → 4 ≤ s.rxbufSize → s.loop = .decode →
    exec i s = .next t → exec i { s with rxLen := min s.rxLen s.rxbufSize } = .next t' →
    t'.statusErr = t.statusErr ∧ t'.loop = t.loop ∧ t'.events = t.events

/-! ### Checksums -/

/-- R131 (an inference the spec marks as its own): the receiver's check of the header checksum holds for every count field, and
the values R131 lists are those of R130's formula. -/
def Obligations.HeaderChecksumPassesReceiverCheck : Prop :=
  (∀ c : Half, adaXor c ^^^ hiByte c ^^^ loByte c = 0x55#8) ∧
  adaXor 0x0000#16 = 0x55#8 ∧ adaXor 0xFFFF#16 = 0x55#8 ∧ adaXor 0x00FF#16 = 0xAA#8 ∧
  adaXor 0x0100#16 = 0x54#8 ∧ adaXor 0x5500#16 = 0x00#8 ∧ adaXor 0x5554#16 = 0x54#8

/-- R133 (an inference the spec marks as its own): both Fletcher sums of every payload are 0 to 254. -/
def Obligations.FletcherSumsStayBelow255 : Prop :=
  ∀ p : List Byte, (fletcher16 p).1.toNat ≤ 254 ∧ (fletcher16 p).2.toNat ≤ 254

/-- R133 (an inference the spec marks as its own): the accumulation of R132 equals the sum and the weighted sum modulo 255. -/
def Obligations.FletcherIsTheWeightedSum : Prop :=
  ∀ p : List Byte,
    (fletcher16 p).1.toNat = byteSum p % 255 ∧ (fletcher16 p).2.toNat = weightedSum p % 255

/-! ### Encoders -/

/-- The header computed from the registers is the one of the closed form (R86, R87, R90). The value for fewer than 3 bytes is
the spec's own choice D10. -/
def Obligations.CountFieldAndChecksumOfLength : Prop :=
  ∀ (n : Half) (magic1 : Byte),
    adaHeaderBytes magic1 (countField n) (adaXor (countField n)) = headerOf magic1 n.toNat ∧
    (3 ≤ n.toNat → (countField n).toNat = n.toNat / 3 - 1) ∧
    (n.toNat < 3 → countField n = 0xFFFF#16)

/-- R144: `ENC.ADALIGHT` on a payload that is held in `RXBUF` and fits completes with the registers, `OUT_LEN`, `TX_PTR` and
`LOOP` of R144; every byte of `OUTBUF` below `OUT_LEN` is the frame's, every other byte and all else is unchanged. That it holds
whatever `CFG.PROTOCOL` and `HS` are, where R140 names ADALIGHT and READY, is the model's choice (log 22). -/
def Obligations.EncAdalightLaysOutFrame : Prop :=
  ∀ (s : State) (payload : List Byte), s.loop = .encode → payload.length = s.fLen.toNat →
    4 + payload.length ≤ s.rxbufSize → (∀ j < payload.length, s.rxbuf.read (4 + j) = payload[j]?) →
    ∃ t, exec .encAdalight s = .next t ∧
      t = { s with
            adaCnt := BitVec.ofNat 16 (countOf payload.length)
            adaCk := (headerOf 0x64#8 payload.length)[5]?.getD 0#8
            outbuf := t.outbuf, outLen := BitVec.ofNat 17 (6 + payload.length), txPtr := 0#17, loop := .send } ∧
      ∀ a, t.outbuf.read a =
        if a < 6 + payload.length then (frameOf .adalight payload)[a]? else s.outbuf.read a

/-- R153: `ENC.AWA`, in the same terms; the footer is the two Fletcher sums, in the closed form that R133 infers, and `FL1` and
`FL2` hold them too. That it holds whatever `CFG.PROTOCOL` is, where R150 names AWA, is the model's choice (log 22). -/
def Obligations.EncAwaLaysOutFrame : Prop :=
  ∀ (s : State) (payload : List Byte), s.loop = .encode → payload.length = s.fLen.toNat →
    4 + payload.length ≤ s.rxbufSize → (∀ j < payload.length, s.rxbuf.read (4 + j) = payload[j]?) →
    ∃ t, exec .encAwa s = .next t ∧
      t = { s with
            adaCnt := BitVec.ofNat 16 (countOf payload.length)
            adaCk := (headerOf 0x77#8 payload.length)[5]?.getD 0#8
            fl1 := BitVec.ofNat 8 (byteSum payload % 255)
            fl2 := BitVec.ofNat 8 (weightedSum payload % 255)
            outbuf := t.outbuf, outLen := BitVec.ofNat 17 (8 + payload.length), txPtr := 0#17, loop := .send } ∧
      ∀ a, t.outbuf.read a =
        if a < 8 + payload.length then (frameOf .awa payload)[a]? else s.outbuf.read a

/-- R162: `ENC.TPM2`, in the same terms; no checksum register is written. That it holds whatever `CFG.PROTOCOL` is, where R160 names
TPM2, is the model's choice (log 22). -/
def Obligations.EncTpm2LaysOutFrame : Prop :=
  ∀ (s : State) (payload : List Byte), s.loop = .encode → payload.length = s.fLen.toNat →
    4 + payload.length ≤ s.rxbufSize → (∀ j < payload.length, s.rxbuf.read (4 + j) = payload[j]?) →
    ∃ t, exec .encTpm2 s = .next t ∧
      t = { s with
            outbuf := t.outbuf, outLen := BitVec.ofNat 17 (5 + payload.length), txPtr := 0#17, loop := .send } ∧
      ∀ a, t.outbuf.read a =
        if a < 5 + payload.length then (frameOf .tpm2 payload)[a]? else s.outbuf.read a

/-- R89: whatever encoder runs, `OUT_LEN` = `header_len + n + footer_len`, which is 6 + n, 8 + n, 5 + n and lies between 5 and
65543; `p` is the encoder's own protocol, and that an encoder runs whatever `CFG.PROTOCOL` is, is the model's choice (log 22). -/
def Obligations.OutLenIsFrameLength : Prop :=
  ∀ (s t : State) (i : Instr) (p : Protocol), s.loop = .encode →
    (i = .encAdalight ∧ p = .adalight ∨ i = .encAwa ∧ p = .awa ∨ i = .encTpm2 ∧ p = .tpm2) →
    exec i s = .next t →
    t.outLen.toNat = (pspec p).headerLen + s.fLen.toNat + (pspec p).footerLen ∧
    t.outLen.toNat =
      (match p with | .adalight => 6 | .awa => 8 | .tpm2 => 5) + s.fLen.toNat ∧
    5 ≤ t.outLen.toNat ∧ t.outLen.toNat ≤ 65543

/-- Observation of R162 (an inference the spec marks as its own): bytes 2 up to the payload's end of the TPM2 frame are those of
the accepted part of the datagram; only bytes 0 and 1 are replaced and the end marker appended. That it holds whatever `CFG.PROTOCOL` is, is the model's
choice (log 22). -/
def Obligations.Tpm2KeepsDatagramBytes : Prop :=
  ∀ (s t : State) (h l : Byte), s.loop = .encode → s.rxbuf.read 2 = some h → s.rxbuf.read 3 = some l →
    s.fLen = be16 h l → exec .encTpm2 s = .next t →
    ∀ a, t.outbuf.read a =
      if a = 0 then some 0xC9#8
      else if a = 1 then some 0xDA#8
      else if a < 4 + s.fLen.toNat then s.rxbuf.read a
      else if a = 4 + s.fLen.toNat then some 0x36#8
      else s.outbuf.read a

/-! ### Emitted words -/

/-- While `LOOP` = `ENCODE`, each emitted row lays its word out in `OUTBUF` at its place in the frame (R67, R144, R152, R153,
R162), and changes nothing else. That an emitted row has this meaning of its own, whatever `CFG.PROTOCOL` is, is the
model's reading (log 6, log 22). -/
def Obligations.EmittedWordIsLaidOut : Prop :=
  ∀ (s : State) (i : Instr) (a : Nat) (w : List Byte), emittedWord s.fLen.toNat i = some (a, w) →
    s.loop = .encode → a + w.length ≤ s.outbufSize →
    ∃ t, exec i s = .next t ∧ t = { s with outbuf := t.outbuf } ∧
      ∀ j, t.outbuf.read j = if a ≤ j ∧ j < a + w.length then w[j - a]? else s.outbuf.read j

/-- While `LOOP` = `SEND`, each emitted row sends its word's bytes (R199, R200): they go to `TX`, `TX_PTR` counts them, and
behind the last byte of the frame `evt_sent` is signalled and `LOOP` goes to `IDLE`. Nothing else changes, no buffer byte
either. The row's meaning, whatever `CFG.PROTOCOL` is and wherever `TX_PTR` stands, is the model's reading (log 6, log 22). -/
def Obligations.EmittedWordIsSent : Prop :=
  ∀ (s : State) (i : Instr) (a : Nat) (w : List Byte), emittedWord s.fLen.toNat i = some (a, w) →
    s.loop = .send → s.txPtr.toNat + w.length ≤ s.outLen.toNat →
    exec i s =
      .next
        (if s.txPtr.toNat + w.length = s.outLen.toNat then
          { s with
            tx := s.tx ++ w
            txPtr := s.outLen
            loop := .idle
            events := s.events ++ [.sent (s.tx.length + w.length)]
            pulses := { s.pulses with sent := true } }
        else { s with tx := s.tx ++ w, txPtr := s.txPtr + BitVec.ofNat 17 w.length })

/-- An emitted row in `SEND` is its word's `TX_BEAT`s one after the other, where `OUTBUF` holds the word at `TX_PTR` (R199).
The row's meaning, whatever `CFG.PROTOCOL` is, is the model's reading (log 6, log 22). -/
def Obligations.EmittedWordIsItsBeats : Prop :=
  ∀ (s : State) (i : Instr) (a : Nat) (w : List Byte), emittedWord s.fLen.toNat i = some (a, w) →
    s.loop = .send → s.txPtr.toNat + w.length ≤ s.outLen.toNat → s.outLen.toNat ≤ s.outbufSize →
    (∀ j < w.length, s.outbuf.read (s.txPtr.toNat + j) = w[j]?) →
    exec i s = txBeats w.length s

/-! ### Transmission -/

/-- R199: `TX_BEAT` in `SEND` hands `OUTBUF[TX_PTR]` to the transmitter and counts `TX_PTR` up; at `OUT_LEN` it signals `evt_sent`
and goes to `IDLE`; outside `SEND` it does nothing; and a clock edge without `tx_ready` in `READY` keeps the byte offered. -/
def Obligations.TxBeatSendsOneByte : Prop :=
  (∀ (s : State) (b : Byte), s.loop = .send → s.txPtr.toNat < s.outLen.toNat → s.txPtr.toNat < s.outbufSize →
    s.outbuf.read s.txPtr.toNat = some b →
    ∃ t, txBeat s = .next t ∧ t.tx = s.tx ++ [b] ∧ t.txPtr.toNat = s.txPtr.toNat + 1 ∧
      t.loop = (if s.txPtr.toNat + 1 = s.outLen.toNat then .idle else .send) ∧
      t.events = s.events ++ (if s.txPtr.toNat + 1 = s.outLen.toNat then [.sent (s.tx.length + 1)] else []) ∧
      t.pulses = { s.pulses with sent := s.pulses.sent || decide (s.txPtr.toNat + 1 = s.outLen.toNat) } ∧
      t = { s with tx := t.tx, txPtr := t.txPtr, loop := t.loop, events := t.events, pulses := t.pulses }) ∧
  (∀ s : State, s.loop ≠ .send → txBeat s = .next s) ∧
  (∀ (s : State) (p : PortIn) (done : Bool), s.loop = .send → s.hs = .ready → p.rst = false → p.txReady = false →
    clockCycle p done s = .next { s with straps := p.straps })

/-- R206 and R200: from `SEND`, a transmitter that takes every byte gets exactly the rest of the OutputBuffer, in order and with
nothing added, and the block ends in `IDLE` with one `evt_sent`. -/
def Obligations.TransmitterGetsRestOfFrame : Prop :=
  ∀ (s : State) (rest : List Byte), s.loop = .send → s.txPtr.toNat < s.outLen.toNat →
    s.outLen.toNat ≤ s.outbufSize → rest.length = s.outLen.toNat - s.txPtr.toNat →
    (∀ j < rest.length, s.outbuf.read (s.txPtr.toNat + j) = rest[j]?) →
    txRun s =
      .next
        { s with
          tx := s.tx ++ rest
          txPtr := s.outLen
          loop := .idle
          events := s.events ++ [.sent (s.tx.length + rest.length)]
          pulses := { s.pulses with sent := true } }

/-- R226, R200: one whole iteration. From a block ready and idle, a datagram offered, two turns of the block and a transmitter
that takes every byte append to `TX` exactly the frame that `datagramFrame` gives, or, when the datagram is rejected, nothing, with
its verdict in `STATUS.ERR`. The cut of a longer datagram (D6), the order of the checks (D7) and the count field below 3 bytes
(D10) are the spec's own choices. -/
def Obligations.IterationTranslatesDatagram : Prop :=
  ∀ (s : State) (p : Protocol) (d : List Byte) (tail : List Stimulus), 4 ≤ s.rxbufSize → s.hs = .ready → s.loop = .idle →
    protocolOf s.cfgProtocol = some p →
    s.script = .datagram d :: .turn :: .turn :: .txRun :: tail →
    ∃ t : State, core.run 4 s = .next t ∧ t.loop = .idle ∧ t.hs = .ready ∧ t.script = tail ∧
      match datagramFrame s.rxbufSize s.cfgChannel p d with
      | .ok frame => t.tx = s.tx ++ frame ∧ t.statusErr = .ok ∧ t.outLen.toNat = frame.length
      | .error e => t.tx = s.tx ∧ t.statusErr = e ∧ t.events = s.events ++ [.drop e]

/-- R226, R190: a step that does not reset only ever appends to `TX`, and appends nothing unless it starts in `SEND`. -/
def Obligations.TxGrowsOnlyInSend : Prop :=
  ∀ s t : State, isReset (nextStimulus s) = false → step s = .next t →
    s.tx <+: t.tx ∧ (s.loop ≠ .send → t.tx = s.tx)

/-! ### Reception -/

/-- R191: `RX_DATAGRAM(d)` is enabled iff `HS` = `READY` and `LOOP` = `IDLE`; it then writes the first `min(len, RXBUF_SIZE)` bytes
to `RXBUF`, and nothing else but `RX_LEN` and `LOOP`; otherwise the datagram is lost. In `IDLE` without a datagram the block waits. -/
def Obligations.DatagramIsReceived : Prop :=
  ∀ (s : State) (d : List Byte),
    (s.hs = .ready → s.loop = .idle →
      ∃ t, applyStimulus (.datagram d) s = .next t ∧
        t = { s with rxLen := min d.length s.rxbufSize, rxbuf := t.rxbuf, loop := .decode } ∧
        ∀ a, t.rxbuf.read a = if a < min d.length s.rxbufSize then d[a]? else s.rxbuf.read a) ∧
    (¬ (s.hs = .ready ∧ s.loop = .idle) → applyStimulus (.datagram d) s = .next s) ∧
    (s.loop = .idle → blockTurn s = .next s)

/-- R193 (level S, the spec's own choice D2): the beats of a datagram, the last one marked, leave the block in the very state that
`RX_DATAGRAM` of the kept bytes does. For the sequences R195 and R204 allow this is R193; for a beat with `dg_keep` = 0 inside a
datagram, which R195 and U18 put outside the rules, it is the model's choice (log 12). -/
def Obligations.BeatsAreTheDatagram : Prop :=
  ∀ (s : State) (beats : List (Byte × Bool)) (b : Byte) (keep : Bool), s.hs = .ready → s.loop = .idle →
    rxBeat b keep true (beats.foldl (fun t x => rxBeat x.1 x.2 false t) s) =
      rxDatagram (((beats ++ [(b, keep)]).filter (fun x => x.2)).map (fun x => x.1)) s

/-- R74, R202: from the end of the reception to the last byte sent no stimulus but `RESET` changes `RXBUF`, `RX_LEN` or, behind
`DECODE`, the frame registers. -/
def Obligations.PayloadIsStableInIteration : Prop :=
  ∀ s t : State, isReset (nextStimulus s) = false → step s = .next t →
    (s.loop = .decode ∨ s.loop = .encode ∨ s.loop = .send → t.rxbuf = s.rxbuf ∧ t.rxLen = s.rxLen) ∧
    (s.loop = .encode ∨ s.loop = .send → t.fChannel = s.fChannel ∧ t.fCommand = s.fCommand ∧ t.fLen = s.fLen)

/-! ### The handshake -/

/-- R174, R170: the handshake words. While `AWAITING`, `HS.MAGIC` takes `HS` to `READY` and `HS.MISMATCH` to `FAILED` with
`HS_MISMATCH`; either leaves the four bytes in `HS_BUF` and `HS_CNT` = 4 and changes nothing else. Outside `AWAITING` they change
nothing (R179, the spec's own choice D13). That a word acts whatever `HS_CNT` is, is the model's choice (log 22). -/
def Obligations.HandshakeWordDecides : Prop :=
  ∀ (s : State) (b0 b1 b2 b3 : Byte),
    (s.hs = .awaiting →
      (∃ t, exec .hsMagic s = .next t ∧ t = { s with hs := .ready, hsBuf := t.hsBuf, hsCnt := 4#3 } ∧
        holdsMagic t.hsBuf ∧ ∀ a, 4 ≤ a → t.hsBuf.read a = s.hsBuf.read a) ∧
      (∃ t, exec (.hsMismatch b0 b1 b2 b3) s = .next t ∧
        t = { s with hs := .failed, hsCause := .mismatch, hsBuf := t.hsBuf, hsCnt := 4#3 } ∧
        t.hsBuf.read 0 = some b0 ∧ t.hsBuf.read 1 = some b1 ∧ t.hsBuf.read 2 = some b2 ∧
        t.hsBuf.read 3 = some b3 ∧ ∀ a, 4 ≤ a → t.hsBuf.read a = s.hsBuf.read a)) ∧
    (s.hs ≠ .awaiting → exec .hsMagic s = .next s ∧ exec (.hsMismatch b0 b1 b2 b3) s = .next s)

/-- R173: `HS_RXBYTE(b)`. A byte before the fourth is stored and counted and decides nothing; the fourth decides, to `READY` iff
the four bytes are `41 64 61 0A` and to `FAILED` with `HS_MISMATCH` otherwise; outside `AWAITING` the byte is discarded. -/
def Obligations.SerialByteIsHandshake : Prop :=
  ∀ (s : State) (b : Byte),
    (s.hs = .awaiting → s.hsCnt.toNat < 3 →
      ∃ t, hsRxByte b s = .next t ∧ t = { s with hsBuf := t.hsBuf, hsCnt := s.hsCnt + 1 } ∧
        ∀ a, t.hsBuf.read a = if a = s.hsCnt.toNat then some b else s.hsBuf.read a) ∧
    (∀ b0 b1 b2, s.hs = .awaiting → s.hsCnt = 3#3 → s.hsBuf.read 0 = some b0 → s.hsBuf.read 1 = some b1 →
      s.hsBuf.read 2 = some b2 →
      ∃ t, hsRxByte b s = .next t ∧
        t = { s with hs := t.hs, hsCause := t.hsCause, hsBuf := t.hsBuf, hsCnt := 4#3 } ∧
        (∀ a, t.hsBuf.read a = if a = 3 then some b else s.hsBuf.read a) ∧
        (if b0 = 0x41#8 ∧ b1 = 0x64#8 ∧ b2 = 0x61#8 ∧ b = 0x0A#8 then
          t.hs = .ready ∧ t.hsCause = s.hsCause
        else t.hs = .failed ∧ t.hsCause = .mismatch)) ∧
    (s.hs ≠ .awaiting → hsRxByte b s = .next s)

/-- R176, R177, R28 (the spec's own choice D11): the time-out fails an awaiting handshake with the cause that tells whether a byte
had arrived, a tick counts the timer and times out when the incremented value reaches the bound, a timer at 65535 stays there and
the tick times out whatever the bound (R28; no run reaches it, log 16), and outside `AWAITING` neither changes anything. -/
def Obligations.TimeoutFailsAwaitingHandshake : Prop :=
  ∀ s : State,
    (s.hs = .awaiting →
      hsTimeout s = { s with hs := .failed, hsCause := if s.hsCnt = 0#3 then .timedOut else .shortRead }) ∧
    (s.hs = .awaiting → s.hsTimer.toNat < 65535 →
      hsTick s =
        if s.cfgHsTimeoutMs.toNat ≤ s.hsTimer.toNat + 1 then
          { s with
            hsTimer := s.hsTimer + 1
            hs := .failed
            hsCause := if s.hsCnt = 0#3 then .timedOut else .shortRead }
        else { s with hsTimer := s.hsTimer + 1 }) ∧
    (s.hs = .awaiting → s.hsTimer.toNat = 65535 →
      hsTick s =
        { s with
          hsTimer := 0xFFFF#16
          hs := .failed
          hsCause := if s.hsCnt = 0#3 then .timedOut else .shortRead }) ∧
    (s.hs ≠ .awaiting → hsTimeout s = s ∧ hsTick s = s)

/-- R170: `READY` and `FAILED` are left by `RESET` only, with their cause, and `AWAITING` is never entered but by `RESET`. -/
def Obligations.HandshakeStateIsFinal : Prop :=
  ∀ s t : State, isReset (nextStimulus s) = false → step s = .next t →
    (s.hs ≠ .awaiting → t.hs = s.hs ∧ t.hsCause = s.hsCause ∧ t.hsBuf = s.hsBuf ∧ t.hsCnt = s.hsCnt) ∧
    (t.hs = .awaiting → s.hs = .awaiting)

/-- R178, R229, R235 (D15): in `FAILED`, with `LOOP` at rest in `IDLE`, a step that does not reset changes nothing but the script,
the pulses and the strap levels; `session_abort` is up, no datagram is taken and no byte is offered. -/
def Obligations.FailedSessionDoesNothing : Prop :=
  ∀ s : State, s.hs = .failed → s.loop = .idle → isReset (nextStimulus s) = false →
    (∃ straps, step s = .next { s.beginStep with straps := straps }) ∧
    (outputs s).sessionAbort = true ∧ (outputs s).dgReady = false ∧ (outputs s).txValid = false

/-- R180 (D14): a serial byte and a tick at one clock edge act as the byte, then the tick. -/
def Obligations.ByteComesBeforeTick : Prop :=
  ∀ (s : State) (p : PortIn) (done : Bool), p.rst = false → p.srxValid = true → p.tickMs = true →
    s.hs = .awaiting → s.loop = .idle →
    clockCycle p done s =
      andThen (hsRxByte p.srxData { s with straps := p.straps }) fun t => .next (hsTick t)

/-! ### The control loop -/

/-- R190: the transition table of `LOOP` is complete. A step that does not reset leaves `LOOP` where it is or takes one of the
table's transitions (a whole datagram and a transmitter that takes several bytes are several rows at once), and only `SEND` with
its last byte taken, or a rejected datagram, leads to `IDLE`. -/
def Obligations.LoopFollowsTransitionTable : Prop :=
  ∀ s t : State, isReset (nextStimulus s) = false → step s = .next t →
    match s.loop with
    | .idle => t.loop = .idle ∨ (s.hs = .ready ∧ (t.loop = .recv ∨ t.loop = .decode))
    | .recv => t.loop = .recv ∨ t.loop = .decode
    | .decode => t.loop = .decode ∨ (t.loop = .encode ∧ t.statusErr = .ok) ∨ (t.loop = .idle ∧ t.statusErr ≠ .ok)
    | .encode => t.loop = .encode ∨ (t.loop = .send ∧ t.txPtr = 0#17)
    | .send => t.loop = .send ∨ (t.loop = .idle ∧ t.txPtr = t.outLen)

/-- R190, R230: an instruction whose phase or handshake state is not the current one has no transition and changes nothing. That
it then leaves the state as it is, and does not stop, is the model's reading (log 5). -/
def Obligations.DisabledInstructionDoesNothing : Prop :=
  ∀ (s : State) (i : Instr),
    ((∃ f, opcFields i = some f) → s.loop ≠ .decode → exec i s = .next s) ∧
    (i.format = .psel → i ≠ .pselReserved → s.loop ≠ .encode → exec i s = .next s) ∧
    (i.format = .hsMagic → s.hs ≠ .awaiting → exec i s = .next s) ∧
    ((∃ w, emittedWord s.fLen.toNat i = some w) → s.loop ≠ .encode → s.loop ≠ .send → exec i s = .next s)

/-- R204 (c) (D2): in `READY` a clock edge without reset is the one operation of the control loop that the phase and the ports
allow; serial bytes and ticks change nothing. -/
def Obligations.ReadyCycleIsOneLoopOperation : Prop :=
  ∀ (s : State) (p : PortIn) (done : Bool), s.hs = .ready → p.rst = false →
    let s' : State := { s with straps := p.straps }
    clockCycle p done s =
      match s.loop with
      | .idle => .next (if p.dgValid then rxBeat p.dgData p.dgKeep p.dgLast s' else s')
      | .recv => .next (if p.dgValid then rxBeat p.dgData p.dgKeep p.dgLast s' else s')
      | .decode => if done then blockTurn s' else .next s'
      | .encode => if done then blockTurn s' else .next s'
      | .send => if p.txReady then txBeat s' else .next s'

/-- R203 with R26, R29, R37, R38, R198 and R221 (D2, D8, D22, D24, D26): all fourteen output ports of every state that meets the
invariant, each code value by value. That the pulses of a step stand at the ports in the state after it is log 10; that `tx_last`
is low outside `SEND` is the model's choice (log 21), and of `tx_data` outside `SEND` nothing is said. -/
def Obligations.PortsShowTheState : Prop :=
  ∀ s : State, Inv s →
    ((outputs s).dgReady = true ↔ s.hs = .ready ∧ (s.loop = .idle ∨ s.loop = .recv)) ∧
    ((outputs s).txValid = true ↔ s.loop = .send) ∧
    ((outputs s).busy = true ↔ s.loop ≠ .idle) ∧
    ((outputs s).sessionAbort = true ↔ s.hs = .failed) ∧
    ((outputs s).txLast = true ↔ s.loop = .send ∧ s.txPtr.toNat + 1 = s.outLen.toNat) ∧
    (s.loop = .send → (outputs s).txData = s.outbuf.read s.txPtr.toNat ∧ (outputs s).txData.isSome = true) ∧
    (outputs s).hsState = (match s.hs with | .awaiting => 0#2 | .ready => 1#2 | .failed => 2#2) ∧
    (outputs s).hsCause =
      (match s.hsCause with
        | .noCause => 0#3 | .mismatch => 1#3 | .shortRead => 2#3 | .timedOut => 3#3 | .cfgInvalid => 4#3) ∧
    (outputs s).errCode =
      (match s.statusErr with
        | .ok => 0#4 | .tooShort => 1#4 | .channelMismatch => 2#4 | .unsupportedCommand => 3#4
        | .payloadTooLarge => 4#4 | .truncatedPayload => 5#4) ∧
    (outputs s).warn3 = s.statusWarn3 ∧
    (outputs s).evtAccept = s.pulses.accept ∧ (outputs s).evtDrop = s.pulses.drop ∧
    (outputs s).evtWarn = s.pulses.warn ∧ (outputs s).evtSent = s.pulses.sent

/-! ### Reset -/

/-- R250, R41 (D18), R251: `RESET` at either level, whatever the block is doing and whatever the other ports carry, leaves the state
of the table: the straps latched, `HS` by the protocol, every counter and status field zero, `TX` empty, `LOOP` = `IDLE`. That the
buffers hold no byte at all after it is the model's choice (log 4). -/
def Obligations.ResetGivesTheTable : Prop :=
  ∀ (s : State) (st : Straps) (p : PortIn) (done : Bool), p.rst = true → p.straps = st →
    (step { s with script := .reset st :: s.script } = .next (freshState s.rxbufSize st s.script)) ∧
    (step { s with script := .cycle p done :: s.script } = .next (freshState s.rxbufSize st s.script)) ∧
    (let t := freshState s.rxbufSize st s.script
     t.cfgProtocol = st.cfgProtocol ∧ t.cfgChannel = st.cfgChannel ∧ t.cfgHsTimeoutMs = st.cfgHsTimeoutMs ∧
     (st.cfgProtocol = 0#2 → t.hs = .awaiting ∧ t.hsCause = .noCause) ∧
     (st.cfgProtocol = 1#2 ∨ st.cfgProtocol = 2#2 → t.hs = .ready ∧ t.hsCause = .noCause) ∧
     (st.cfgProtocol = 3#2 → t.hs = .failed ∧ t.hsCause = .cfgInvalid) ∧
     t.hsCnt = 0 ∧ t.hsTimer = 0 ∧ t.loop = .idle ∧ t.rxLen = 0 ∧ t.outLen = 0 ∧ t.txPtr = 0 ∧
     t.fChannel = 0 ∧ t.fCommand = 0 ∧ t.fLen = 0 ∧ t.adaCnt = 0 ∧ t.adaCk = 0 ∧ t.fl1 = 0 ∧ t.fl2 = 0 ∧
     t.statusErr = .ok ∧ t.statusWarn3 = false ∧ t.tx = [] ∧ t.events = [] ∧ t.pulses = Pulses.none)

/-- R233 (D4): `PSEL.RESERVED` completes in every state as a `RESET` with the reserved selection: `FAILED`, `CFG_INVALID`, everything
else at its reset value; no buffer byte keeps a value (log 4, log 8). -/
def Obligations.ReservedSelectionFails : Prop :=
  ∀ s : State, ∃ t, exec .pselReserved s = .next t ∧
    t = freshState s.rxbufSize { s.straps with cfgProtocol := 3#2 } s.script ∧
    t.cfgProtocol = 3#2 ∧ t.hs = .failed ∧ t.hsCause = .cfgInvalid ∧ t.loop = .idle ∧ t.tx = [] ∧
    (outputs t).sessionAbort = true ∧
    ∀ a, t.rxbuf.read a = none ∧ t.outbuf.read a = none ∧ t.hsBuf.read a = none

/-- R24 (D3), R45: the configuration and `RXBUF_SIZE` are written by no step but `RESET`, whatever the straps do. -/
def Obligations.ConfigurationIsLatched : Prop :=
  ∀ s t : State, step s = .next t → t.rxbufSize = s.rxbufSize ∧
    (isReset (nextStimulus s) = false →
      t.cfgProtocol = s.cfgProtocol ∧ t.cfgChannel = s.cfgChannel ∧ t.cfgHsTimeoutMs = s.cfgHsTimeoutMs)

/-! ### Buffers -/

/-- R11, R68: a buffer byte reads as last written and no write touches another; loads and stores answer exactly inside the buffer. That an
unwritten byte has no value is the model's choice (log 4). -/
def Obligations.BufferReadsLastWrite : Prop :=
  ∀ (m : Mem) (a i : Nat) (bs : List Byte) (k : BufferId) (size : Nat),
    (m.writeBytes a bs).read i = (if a ≤ i ∧ i < a + bs.length then bs[i - a]? else m.read i) ∧
    (∀ m', storeBytes k size m a bs = .ok m' ↔ a + bs.length ≤ size ∧ m' = m.writeBytes a bs) ∧
    (loadBytes k size m a bs.length = .ok bs ↔ ∀ j < bs.length, a + j < size ∧ m.read (a + j) = bs[j]?)

/-- Every instruction keeps the three buffers in canonical form, in every state. -/
def Obligations.BuffersStayCanonical : Prop :=
  ∀ (i : Instr) (s t : State), exec i s = .next t → s.rxbuf.wf → s.outbuf.wf → s.hsBuf.wf →
    t.rxbuf.wf ∧ t.outbuf.wf ∧ t.hsBuf.wf

/-! ### The invariant -/

/-- The invariant holds after `RESET` with any straps, any `RXBUF_SIZE` the spec allows (R7) and any script, so at
`State.reset`. -/
def Obligations.ResetMeetsTheInvariant : Prop :=
  (∀ (n : Nat) (st : Straps) (script : List Stimulus), 4 ≤ n → Inv (freshState n st script)) ∧
  Inv State.reset

/-- Every step keeps the invariant: canonical buffers inside their sizes (R68), the handshake state with its cause, count and
bytes (R27, R170), `LOOP` at rest unless `HS` = `READY` and no byte sent before (R178, R192), an accepted frame's registers (R32),
and in `SEND` an `OUTBUF` that holds the frame of the payload in `RXBUF` of which `TX` ends with the bytes sent (R67, R206). -/
def Obligations.StepKeepsTheInvariant : Prop :=
  ∀ s t : State, Inv s → step s = .next t → Inv t

/-- R68, R242: no step from a state that meets the invariant stops: every access is inside its buffer and reads a written byte. -/
def Obligations.NoStepStops : Prop :=
  ∀ s : State, Inv s → ∃ t, step s = .next t

/-- The handshake is safe over every run (R178, R192, R254): under ADALIGHT, whatever the environment does, bytes have been
transmitted only if the first four serial bytes of the session were the magic. -/
def Obligations.NoByteBeforeMagic : Prop :=
  ∀ (n : Nat) (st : Straps) (script : List Stimulus) (k : Nat), 4 ≤ n →
    ∃ t : State, core.run k (freshState n st script) = .next t ∧
      (t.cfgProtocol = 0#2 → t.tx ≠ [] → t.hs = .ready ∧ t.hsCnt = 4#3 ∧ holdsMagic t.hsBuf)

/-! ### Events -/

/-- R38 (D24), R39 (b): after a step that does not reset, each port `evt_*` is 1 exactly if the step recorded its event, and
records of earlier steps stay. That a pulse stands at the port in the state after its step is log 10. -/
def Obligations.EventPortsShowTheStep : Prop :=
  ∀ s t : State, isReset (nextStimulus s) = false → step s = .next t →
    ∃ recorded : List Event, t.events = s.events ++ recorded ∧
      ((outputs t).evtAccept = true ↔ Event.accept ∈ recorded) ∧
      ((outputs t).evtWarn = true ↔ Event.warn ∈ recorded) ∧
      ((outputs t).evtDrop = true ↔ ∃ e, Event.drop e ∈ recorded) ∧
      ((outputs t).evtSent = true ↔ ∃ n, Event.sent n ∈ recorded)
end

