-- ==== Sys2Proof/Laws/Fields.lean ====
section
/-! SUPPORT. The bit fields of an encoding: high and low byte against their 16-bit value, and the command byte of a row. -/

namespace Sys2Proof

@[simp] theorem be16_hiByte_loByte (v : Half) : be16 (hiByte v) (loByte v) = v := by
  simp only [hiByte, loByte, be16]
  ext j hj
  simp only [BitVec.getElem_append]
  split
  · simp [BitVec.getLsbD_eq_getElem hj]
  · rename_i h
    simp [show 8 + (j - 8) = j by omega, BitVec.getLsbD_eq_getElem hj]

theorem be16_toNat (h l : Byte) : (be16 h l).toNat = h.toNat * 256 + l.toNat := by
  have := l.isLt
  simp only [be16, BitVec.toNat_append]
  rw [← Nat.shiftLeft_add_eq_or_of_lt this, Nat.shiftLeft_eq]

theorem hiByte_toNat (v : Half) : (hiByte v).toNat = v.toNat / 256 := by
  have := v.isLt
  simp only [hiByte, BitVec.extractLsb'_toNat, Nat.shiftRight_eq_div_pow]
  omega

theorem loByte_toNat (v : Half) : (loByte v).toNat = v.toNat % 256 := by
  simp only [loByte, BitVec.extractLsb'_toNat, Nat.shiftRight_eq_div_pow]
  omega

@[simp] theorem hiByte_be16 (h l : Byte) : hiByte (be16 h l) = h := by
  apply BitVec.eq_of_toNat_eq
  have := l.isLt
  rw [hiByte_toNat, be16_toNat]
  omega

@[simp] theorem loByte_be16 (h l : Byte) : loByte (be16 h l) = l := by
  apply BitVec.eq_of_toNat_eq
  have := l.isLt
  rw [loByte_toNat, be16_toNat]
  omega

/-! ### The command byte of an `OPC.UNSUPPORTED.k` row -/

theorem decodeOpc_unsupportedCommand1 (channel : Byte) (c : BitVec 1) (n : Half) :
    decodeOpc channel (unsupportedCommand c) n = .opcUnsupported1 channel c n := by
  have h : ∀ c : BitVec 1, (unsupportedCommand c).getLsbD 7 = false ∧ (unsupportedCommand c).getLsbD 6 = false ∧ (unsupportedCommand c).getLsbD 5 = false ∧ (unsupportedCommand c).getLsbD 4 = false ∧ (unsupportedCommand c).getLsbD 3 = false ∧ (unsupportedCommand c).getLsbD 2 = false ∧
      (unsupportedCommand c).getLsbD 1 = true ∧ (unsupportedCommand c).extractLsb' 0 1 = c := by decide +kernel
  simp only [decodeOpc, h, Bool.false_eq_true, if_false, if_true]

theorem decodeOpc_unsupportedCommand2 (channel : Byte) (c : BitVec 2) (n : Half) :
    decodeOpc channel (unsupportedCommand c) n = .opcUnsupported2 channel c n := by
  have h : ∀ c : BitVec 2, (unsupportedCommand c).getLsbD 7 = false ∧ (unsupportedCommand c).getLsbD 6 = false ∧ (unsupportedCommand c).getLsbD 5 = false ∧ (unsupportedCommand c).getLsbD 4 = false ∧ (unsupportedCommand c).getLsbD 3 = false ∧
      (unsupportedCommand c).getLsbD 2 = true ∧ (unsupportedCommand c).extractLsb' 0 2 = c := by decide +kernel
  simp only [decodeOpc, h, Bool.false_eq_true, if_false, if_true]

theorem decodeOpc_unsupportedCommand3 (channel : Byte) (c : BitVec 3) (n : Half) :
    decodeOpc channel (unsupportedCommand c) n = .opcUnsupported3 channel c n := by
  have h : ∀ c : BitVec 3, (unsupportedCommand c).getLsbD 7 = false ∧ (unsupportedCommand c).getLsbD 6 = false ∧ (unsupportedCommand c).getLsbD 5 = false ∧ (unsupportedCommand c).getLsbD 4 = false ∧
      (unsupportedCommand c).getLsbD 3 = true ∧ (unsupportedCommand c).extractLsb' 0 3 = c := by decide +kernel
  simp only [decodeOpc, h, Bool.false_eq_true, if_false, if_true]

theorem decodeOpc_unsupportedCommand4 (channel : Byte) (c : BitVec 4) (n : Half) :
    decodeOpc channel (unsupportedCommand c) n = .opcUnsupported4 channel c n := by
  have h : ∀ c : BitVec 4, (unsupportedCommand c).getLsbD 7 = false ∧ (unsupportedCommand c).getLsbD 6 = false ∧ (unsupportedCommand c).getLsbD 5 = false ∧
      (unsupportedCommand c).getLsbD 4 = true ∧ (unsupportedCommand c).extractLsb' 0 4 = c := by decide +kernel
  simp only [decodeOpc, h, Bool.false_eq_true, if_false, if_true]

theorem decodeOpc_unsupportedCommand5 (channel : Byte) (c : BitVec 5) (n : Half) :
    decodeOpc channel (unsupportedCommand c) n = .opcUnsupported5 channel c n := by
  have h : ∀ c : BitVec 5, (unsupportedCommand c).getLsbD 7 = false ∧ (unsupportedCommand c).getLsbD 6 = false ∧
      (unsupportedCommand c).getLsbD 5 = true ∧ (unsupportedCommand c).extractLsb' 0 5 = c := by decide +kernel
  simp only [decodeOpc, h, Bool.false_eq_true, if_false, if_true]

theorem decodeOpc_unsupportedCommand6 (channel : Byte) (c : BitVec 6) (n : Half) :
    decodeOpc channel (unsupportedCommand c) n = .opcUnsupported6 channel c n := by
  have h : ∀ c : BitVec 6, (unsupportedCommand c).getLsbD 7 = false ∧
      (unsupportedCommand c).getLsbD 6 = true ∧ (unsupportedCommand c).extractLsb' 0 6 = c := by decide +kernel
  simp only [decodeOpc, h, Bool.false_eq_true, if_false, if_true]

theorem decodeOpc_unsupportedCommand7 (channel : Byte) (c : BitVec 7) (n : Half) :
    decodeOpc channel (unsupportedCommand c) n = .opcUnsupported7 channel c n := by
  have h : ∀ c : BitVec 7,
      (unsupportedCommand c).getLsbD 7 = true ∧ (unsupportedCommand c).extractLsb' 0 7 = c := by decide +kernel
  simp only [decodeOpc, h, if_true]

end Sys2Proof
end

