-- ==== Sys2Proof/Laws/Memory.lean ====
section
/-! SUPPORT. What the buffer operations do: a read after a write, the canonical form, ranges of bytes. -/

namespace Sys2Proof.Machine

open Sys2Proof

/-! ### One byte -/

theorem lookupCell_insertCell (cs : List Host.Cell) (a : Nat) (b : Byte) (i : Nat) :
    lookupCell (insertCell cs a b) i = if i = a then some b else lookupCell cs i := by
  induction cs with
  | nil => simp [insertCell, lookupCell, eq_comm]
  | cons c cs ih =>
    simp only [insertCell]
    split
    · simp only [lookupCell, eq_comm]
    · split
      · subst a
        simp only [lookupCell]
        by_cases h : c.1 = i
        · simp [h]
        · simp [h, Ne.symm h]
      · rename_i h
        simp only [lookupCell, ih]
        by_cases h' : c.1 = i
        · have : ¬ i = a := fun e => h (e ▸ h'.symm)
          simp [h', this]
        · simp [h']

theorem Mem.read_empty (a : Nat) : Mem.empty.read a = none := rfl

/-- A read after a write of one byte. -/
theorem Mem.read_write (m : Mem) (a : Nat) (b : Byte) (i : Nat) :
    (m.write a b).read i = if i = a then some b else m.read i :=
  lookupCell_insertCell m.cells a b i

theorem mem_insertCell {cs : List Host.Cell} {a : Nat} {b : Byte} {c : Host.Cell}
    (h : c ∈ insertCell cs a b) : c = (a, b) ∨ c ∈ cs := by
  induction cs with
  | nil => simpa [insertCell] using h
  | cons d cs ih =>
    simp only [insertCell] at h
    split at h
    · simpa using h
    · split at h
      · rcases List.mem_cons.1 h with rfl | h
        · exact .inl rfl
        · exact .inr (List.mem_cons_of_mem _ h)
      · rcases List.mem_cons.1 h with rfl | h
        · exact .inr List.mem_cons_self
        · rcases ih h with h | h
          · exact .inl h
          · exact .inr (List.mem_cons_of_mem _ h)

theorem Mem.wf_empty : Mem.empty.wf := List.Pairwise.nil

/-- A write keeps the canonical form. -/
theorem Mem.wf_write {m : Mem} (h : m.wf) (a : Nat) (b : Byte) : (m.write a b).wf := by
  obtain ⟨cs⟩ := m
  simp only [Mem.wf, Mem.write] at *
  induction cs with
  | nil => simp [insertCell]
  | cons c cs ih =>
    obtain ⟨hc, hcs⟩ := List.pairwise_cons.1 h
    simp only [insertCell]
    split
    · rename_i hlt
      refine List.pairwise_cons.2 ⟨fun d hd => ?_, h⟩
      rcases List.mem_cons.1 hd with rfl | hd
      · exact hlt
      · exact lt_trans hlt (hc d hd)
    · split
      · rename_i heq
        exact List.pairwise_cons.2 ⟨fun d hd => heq ▸ hc d hd, hcs⟩
      · rename_i h1 h2
        refine List.pairwise_cons.2 ⟨fun d hd => ?_, ih hcs⟩
        rcases mem_insertCell hd with rfl | hd
        · show c.1 < a
          omega
        · exact hc d hd

/-! ### Ranges -/

/-- A read after a write of several bytes. -/
theorem Mem.read_writeBytes (m : Mem) (a : Nat) (bs : List Byte) (i : Nat) :
    (m.writeBytes a bs).read i =
      if a ≤ i ∧ i < a + bs.length then bs[i - a]? else m.read i := by
  induction bs generalizing m a with
  | nil =>
    simp [Mem.writeBytes]
  | cons b bs ih =>
    simp only [Mem.writeBytes, ih, Mem.read_write, List.length_cons]
    by_cases h1 : a + 1 ≤ i ∧ i < a + 1 + bs.length
    · have h2 : a ≤ i ∧ i < a + (bs.length + 1) := by omega
      have h3 : i - a = (i - (a + 1)) + 1 := by omega
      rw [if_pos h1, if_pos h2, h3, List.getElem?_cons_succ]
    · rw [if_neg h1]
      by_cases h2 : i = a
      · subst h2
        simp
      · have h3 : ¬ (a ≤ i ∧ i < a + (bs.length + 1)) := by omega
        simp [h2, h3]

theorem Mem.wf_writeBytes {m : Mem} (h : m.wf) (a : Nat) (bs : List Byte) :
    (m.writeBytes a bs).wf := by
  induction bs generalizing m a with
  | nil => exact h
  | cons b bs ih => exact ih (Mem.wf_write h a b) (a + 1)

/-- Every cell after a write is an old one or lies in the range written. -/
theorem Mem.mem_writeBytes {m : Mem} {a : Nat} {bs : List Byte} {c : Host.Cell}
    (h : c ∈ (m.writeBytes a bs).cells) : c ∈ m.cells ∨ (a ≤ c.1 ∧ c.1 < a + bs.length) := by
  induction bs generalizing m a with
  | nil => exact .inl h
  | cons b bs ih =>
    rcases ih (m := m.write a b) h with h | h
    · rcases mem_insertCell h with rfl | h
      · right
        simp
      · exact .inl h
    · right
      simp only [List.length_cons]
      omega

theorem Mem.writeBytes_append (m : Mem) (a : Nat) (bs cs : List Byte) :
    m.writeBytes a (bs ++ cs) = (m.writeBytes a bs).writeBytes (a + bs.length) cs := by
  induction bs generalizing m a with
  | nil => rfl
  | cons b bs ih =>
    simp only [List.cons_append, Mem.writeBytes, ih, List.length_cons]
    congr 1
    omega

/-! ### Bounded access -/

theorem loadByte_ok_iff (k : BufferId) (size : Nat) (m : Mem) (a : Nat) (b : Byte) :
    loadByte k size m a = .ok b ↔ a < size ∧ m.read a = some b := by
  unfold loadByte
  split
  · split <;> simp_all
  · simp_all

/-- A load of several bytes answers them exactly when all are inside the buffer and written. -/
theorem loadBytes_ok_iff (k : BufferId) (size : Nat) (m : Mem) (a n : Nat) (bs : List Byte) :
    loadBytes k size m a n = .ok bs ↔
      bs.length = n ∧ ∀ i < n, a + i < size ∧ m.read (a + i) = bs[i]? := by
  induction n generalizing a bs with
  | zero => cases bs <;> simp [loadBytes]
  | succ n ih =>
    simp only [loadBytes]
    cases hb : loadByte k size m a with
    | error f =>
      simp only [reduceCtorEq, false_iff]
      rintro ⟨hl, h⟩
      obtain ⟨h1, h2⟩ := h 0 (by omega)
      have hlen : 0 < bs.length := by omega
      rw [List.getElem?_eq_getElem hlen] at h2
      have := (loadByte_ok_iff k size m a _).2 ⟨h1, h2⟩
      simp [this] at hb
    | ok b =>
      obtain ⟨h1, h2⟩ := (loadByte_ok_iff k size m a b).1 hb
      cases hr : loadBytes k size m (a + 1) n with
      | error f =>
        simp only [reduceCtorEq, false_iff]
        rintro ⟨hl, h⟩
        obtain ⟨c, bs', rfl⟩ : ∃ c bs', bs = c :: bs' := by
          cases bs with
          | nil => simp at hl
          | cons c bs' => exact ⟨c, bs', rfl⟩
        have : loadBytes k size m (a + 1) n = .ok bs' := by
          refine (ih (a + 1) bs').2 ⟨by simpa using hl, fun i hi => ?_⟩
          have := h (i + 1) (by omega)
          rw [List.getElem?_cons_succ] at this
          rwa [show a + 1 + i = a + (i + 1) by omega]
        simp [this] at hr
      | ok bs' =>
        obtain ⟨hl', h'⟩ := (ih (a + 1) bs').1 hr
        constructor
        · intro h
          obtain rfl : b :: bs' = bs := by simpa using h
          refine ⟨by simp [hl'], fun i hi => ?_⟩
          cases i with
          | zero => exact ⟨h1, by simpa using h2⟩
          | succ i =>
            have := h' i (by omega)
            rw [List.getElem?_cons_succ]
            rwa [show a + (i + 1) = a + 1 + i by omega]
        · rintro ⟨hl, h⟩
          cases bs with
          | nil => simp at hl
          | cons c cs =>
            obtain ⟨-, h0⟩ := h 0 (by omega)
            rw [Nat.add_zero, h2, List.getElem?_cons_zero, Option.some.injEq] at h0
            have : loadBytes k size m (a + 1) n = .ok cs := by
              refine (ih (a + 1) cs).2 ⟨by simpa using hl, fun i hi => ?_⟩
              have := h (i + 1) (by omega)
              rw [List.getElem?_cons_succ] at this
              rwa [show a + 1 + i = a + (i + 1) by omega]
            rw [hr] at this
            simp only [Except.ok.injEq] at this
            rw [h0, this]

/-- Where every byte of the range is inside the buffer and written, a load answers. -/
theorem loadBytes_total (k : BufferId) (size : Nat) (m : Mem) (a n : Nat) (hs : a + n ≤ size)
    (h : ∀ i < n, (m.read (a + i)).isSome = true) : ∃ bs, loadBytes k size m a n = .ok bs := by
  induction n generalizing a with
  | zero => exact ⟨[], rfl⟩
  | succ n ih =>
    obtain ⟨b, hb⟩ := Option.isSome_iff_exists.1 (h 0 (by omega))
    have h1 : loadByte k size m a = .ok b := (loadByte_ok_iff ..).2 ⟨by omega, hb⟩
    obtain ⟨bs, h2⟩ := ih (a + 1) (by omega) fun i hi => by
      have := h (i + 1) (by omega)
      rwa [show a + 1 + i = a + (i + 1) by omega]
    exact ⟨b :: bs, by simp [loadBytes, h1, h2]⟩

theorem loadBytes_length {k : BufferId} {size : Nat} {m : Mem} {a n : Nat} {bs : List Byte}
    (h : loadBytes k size m a n = .ok bs) : bs.length = n :=
  ((loadBytes_ok_iff ..).1 h).1

theorem storeBytes_ok_iff (k : BufferId) (size : Nat) (m m' : Mem) (a : Nat) (bs : List Byte) :
    storeBytes k size m a bs = .ok m' ↔ a + bs.length ≤ size ∧ m' = m.writeBytes a bs := by
  unfold storeBytes
  split <;> simp_all [eq_comm]

end Sys2Proof.Machine
end

