-- ==== Sys2Proof/Laws/State.lean ====
section
/-! SUPPORT. One lemma per field per update, so that no later proof unfolds a record update. -/

namespace Sys2Proof.Machine

open Sys2Proof

/-! ### `State.beginStep` -/

@[simp] theorem State.beginStep_rxbufSize (s : State) : (s.beginStep).rxbufSize = s.rxbufSize := rfl
@[simp] theorem State.beginStep_straps (s : State) : (s.beginStep).straps = s.straps := rfl
@[simp] theorem State.beginStep_cfgProtocol (s : State) : (s.beginStep).cfgProtocol = s.cfgProtocol := rfl
@[simp] theorem State.beginStep_cfgChannel (s : State) : (s.beginStep).cfgChannel = s.cfgChannel := rfl
@[simp] theorem State.beginStep_cfgHsTimeoutMs (s : State) : (s.beginStep).cfgHsTimeoutMs = s.cfgHsTimeoutMs := rfl
@[simp] theorem State.beginStep_hs (s : State) : (s.beginStep).hs = s.hs := rfl
@[simp] theorem State.beginStep_hsBuf (s : State) : (s.beginStep).hsBuf = s.hsBuf := rfl
@[simp] theorem State.beginStep_hsCnt (s : State) : (s.beginStep).hsCnt = s.hsCnt := rfl
@[simp] theorem State.beginStep_hsTimer (s : State) : (s.beginStep).hsTimer = s.hsTimer := rfl
@[simp] theorem State.beginStep_hsCause (s : State) : (s.beginStep).hsCause = s.hsCause := rfl
@[simp] theorem State.beginStep_loop (s : State) : (s.beginStep).loop = s.loop := rfl
@[simp] theorem State.beginStep_rxbuf (s : State) : (s.beginStep).rxbuf = s.rxbuf := rfl
@[simp] theorem State.beginStep_rxLen (s : State) : (s.beginStep).rxLen = s.rxLen := rfl
@[simp] theorem State.beginStep_fChannel (s : State) : (s.beginStep).fChannel = s.fChannel := rfl
@[simp] theorem State.beginStep_fCommand (s : State) : (s.beginStep).fCommand = s.fCommand := rfl
@[simp] theorem State.beginStep_fLen (s : State) : (s.beginStep).fLen = s.fLen := rfl
@[simp] theorem State.beginStep_adaCnt (s : State) : (s.beginStep).adaCnt = s.adaCnt := rfl
@[simp] theorem State.beginStep_adaCk (s : State) : (s.beginStep).adaCk = s.adaCk := rfl
@[simp] theorem State.beginStep_fl1 (s : State) : (s.beginStep).fl1 = s.fl1 := rfl
@[simp] theorem State.beginStep_fl2 (s : State) : (s.beginStep).fl2 = s.fl2 := rfl
@[simp] theorem State.beginStep_outbuf (s : State) : (s.beginStep).outbuf = s.outbuf := rfl
@[simp] theorem State.beginStep_outLen (s : State) : (s.beginStep).outLen = s.outLen := rfl
@[simp] theorem State.beginStep_txPtr (s : State) : (s.beginStep).txPtr = s.txPtr := rfl
@[simp] theorem State.beginStep_statusErr (s : State) : (s.beginStep).statusErr = s.statusErr := rfl
@[simp] theorem State.beginStep_statusWarn3 (s : State) : (s.beginStep).statusWarn3 = s.statusWarn3 := rfl
@[simp] theorem State.beginStep_tx (s : State) : (s.beginStep).tx = s.tx := rfl
@[simp] theorem State.beginStep_events (s : State) : (s.beginStep).events = s.events := rfl
@[simp] theorem State.beginStep_pulses (s : State) : (s.beginStep).pulses = Pulses.none := rfl
@[simp] theorem State.beginStep_script (s : State) : (s.beginStep).script = s.script.tail := rfl

/-! ### `State.signal` -/

@[simp] theorem State.signal_rxbufSize (s : State) (e : Event) : (s.signal e).rxbufSize = s.rxbufSize := rfl
@[simp] theorem State.signal_straps (s : State) (e : Event) : (s.signal e).straps = s.straps := rfl
@[simp] theorem State.signal_cfgProtocol (s : State) (e : Event) : (s.signal e).cfgProtocol = s.cfgProtocol := rfl
@[simp] theorem State.signal_cfgChannel (s : State) (e : Event) : (s.signal e).cfgChannel = s.cfgChannel := rfl
@[simp] theorem State.signal_cfgHsTimeoutMs (s : State) (e : Event) : (s.signal e).cfgHsTimeoutMs = s.cfgHsTimeoutMs := rfl
@[simp] theorem State.signal_hs (s : State) (e : Event) : (s.signal e).hs = s.hs := rfl
@[simp] theorem State.signal_hsBuf (s : State) (e : Event) : (s.signal e).hsBuf = s.hsBuf := rfl
@[simp] theorem State.signal_hsCnt (s : State) (e : Event) : (s.signal e).hsCnt = s.hsCnt := rfl
@[simp] theorem State.signal_hsTimer (s : State) (e : Event) : (s.signal e).hsTimer = s.hsTimer := rfl
@[simp] theorem State.signal_hsCause (s : State) (e : Event) : (s.signal e).hsCause = s.hsCause := rfl
@[simp] theorem State.signal_loop (s : State) (e : Event) : (s.signal e).loop = s.loop := rfl
@[simp] theorem State.signal_rxbuf (s : State) (e : Event) : (s.signal e).rxbuf = s.rxbuf := rfl
@[simp] theorem State.signal_rxLen (s : State) (e : Event) : (s.signal e).rxLen = s.rxLen := rfl
@[simp] theorem State.signal_fChannel (s : State) (e : Event) : (s.signal e).fChannel = s.fChannel := rfl
@[simp] theorem State.signal_fCommand (s : State) (e : Event) : (s.signal e).fCommand = s.fCommand := rfl
@[simp] theorem State.signal_fLen (s : State) (e : Event) : (s.signal e).fLen = s.fLen := rfl
@[simp] theorem State.signal_adaCnt (s : State) (e : Event) : (s.signal e).adaCnt = s.adaCnt := rfl
@[simp] theorem State.signal_adaCk (s : State) (e : Event) : (s.signal e).adaCk = s.adaCk := rfl
@[simp] theorem State.signal_fl1 (s : State) (e : Event) : (s.signal e).fl1 = s.fl1 := rfl
@[simp] theorem State.signal_fl2 (s : State) (e : Event) : (s.signal e).fl2 = s.fl2 := rfl
@[simp] theorem State.signal_outbuf (s : State) (e : Event) : (s.signal e).outbuf = s.outbuf := rfl
@[simp] theorem State.signal_outLen (s : State) (e : Event) : (s.signal e).outLen = s.outLen := rfl
@[simp] theorem State.signal_txPtr (s : State) (e : Event) : (s.signal e).txPtr = s.txPtr := rfl
@[simp] theorem State.signal_statusErr (s : State) (e : Event) : (s.signal e).statusErr = s.statusErr := rfl
@[simp] theorem State.signal_statusWarn3 (s : State) (e : Event) : (s.signal e).statusWarn3 = s.statusWarn3 := rfl
@[simp] theorem State.signal_tx (s : State) (e : Event) : (s.signal e).tx = s.tx := rfl
@[simp] theorem State.signal_events (s : State) (e : Event) : (s.signal e).events = s.events ++ [e] := rfl
@[simp] theorem State.signal_script (s : State) (e : Event) : (s.signal e).script = s.script := rfl

/-! ### `raiseError` -/

@[simp] theorem raiseError_rxbufSize (e : ErrCode) (s : State) : (raiseError e s).rxbufSize = s.rxbufSize := rfl
@[simp] theorem raiseError_straps (e : ErrCode) (s : State) : (raiseError e s).straps = s.straps := rfl
@[simp] theorem raiseError_cfgProtocol (e : ErrCode) (s : State) : (raiseError e s).cfgProtocol = s.cfgProtocol := rfl
@[simp] theorem raiseError_cfgChannel (e : ErrCode) (s : State) : (raiseError e s).cfgChannel = s.cfgChannel := rfl
@[simp] theorem raiseError_cfgHsTimeoutMs (e : ErrCode) (s : State) : (raiseError e s).cfgHsTimeoutMs = s.cfgHsTimeoutMs := rfl
@[simp] theorem raiseError_hs (e : ErrCode) (s : State) : (raiseError e s).hs = s.hs := rfl
@[simp] theorem raiseError_hsBuf (e : ErrCode) (s : State) : (raiseError e s).hsBuf = s.hsBuf := rfl
@[simp] theorem raiseError_hsCnt (e : ErrCode) (s : State) : (raiseError e s).hsCnt = s.hsCnt := rfl
@[simp] theorem raiseError_hsTimer (e : ErrCode) (s : State) : (raiseError e s).hsTimer = s.hsTimer := rfl
@[simp] theorem raiseError_hsCause (e : ErrCode) (s : State) : (raiseError e s).hsCause = s.hsCause := rfl
@[simp] theorem raiseError_loop (e : ErrCode) (s : State) : (raiseError e s).loop = .idle := rfl
@[simp] theorem raiseError_rxbuf (e : ErrCode) (s : State) : (raiseError e s).rxbuf = s.rxbuf := rfl
@[simp] theorem raiseError_rxLen (e : ErrCode) (s : State) : (raiseError e s).rxLen = s.rxLen := rfl
@[simp] theorem raiseError_fChannel (e : ErrCode) (s : State) : (raiseError e s).fChannel = s.fChannel := rfl
@[simp] theorem raiseError_fCommand (e : ErrCode) (s : State) : (raiseError e s).fCommand = s.fCommand := rfl
@[simp] theorem raiseError_fLen (e : ErrCode) (s : State) : (raiseError e s).fLen = s.fLen := rfl
@[simp] theorem raiseError_adaCnt (e : ErrCode) (s : State) : (raiseError e s).adaCnt = s.adaCnt := rfl
@[simp] theorem raiseError_adaCk (e : ErrCode) (s : State) : (raiseError e s).adaCk = s.adaCk := rfl
@[simp] theorem raiseError_fl1 (e : ErrCode) (s : State) : (raiseError e s).fl1 = s.fl1 := rfl
@[simp] theorem raiseError_fl2 (e : ErrCode) (s : State) : (raiseError e s).fl2 = s.fl2 := rfl
@[simp] theorem raiseError_outbuf (e : ErrCode) (s : State) : (raiseError e s).outbuf = s.outbuf := rfl
@[simp] theorem raiseError_outLen (e : ErrCode) (s : State) : (raiseError e s).outLen = s.outLen := rfl
@[simp] theorem raiseError_txPtr (e : ErrCode) (s : State) : (raiseError e s).txPtr = s.txPtr := rfl
@[simp] theorem raiseError_statusErr (e : ErrCode) (s : State) : (raiseError e s).statusErr = e := rfl
@[simp] theorem raiseError_statusWarn3 (e : ErrCode) (s : State) : (raiseError e s).statusWarn3 = s.statusWarn3 := rfl
@[simp] theorem raiseError_tx (e : ErrCode) (s : State) : (raiseError e s).tx = s.tx := rfl
@[simp] theorem raiseError_events (e : ErrCode) (s : State) : (raiseError e s).events = s.events ++ [.drop e] := rfl
@[simp] theorem raiseError_pulses (e : ErrCode) (s : State) : (raiseError e s).pulses = { s.pulses with drop := true } := rfl
@[simp] theorem raiseError_script (e : ErrCode) (s : State) : (raiseError e s).script = s.script := rfl

/-! ### `failHandshake` -/

@[simp] theorem failHandshake_rxbufSize (c : HsCause) (s : State) : (failHandshake c s).rxbufSize = s.rxbufSize := rfl
@[simp] theorem failHandshake_straps (c : HsCause) (s : State) : (failHandshake c s).straps = s.straps := rfl
@[simp] theorem failHandshake_cfgProtocol (c : HsCause) (s : State) : (failHandshake c s).cfgProtocol = s.cfgProtocol := rfl
@[simp] theorem failHandshake_cfgChannel (c : HsCause) (s : State) : (failHandshake c s).cfgChannel = s.cfgChannel := rfl
@[simp] theorem failHandshake_cfgHsTimeoutMs (c : HsCause) (s : State) : (failHandshake c s).cfgHsTimeoutMs = s.cfgHsTimeoutMs := rfl
@[simp] theorem failHandshake_hs (c : HsCause) (s : State) : (failHandshake c s).hs = .failed := rfl
@[simp] theorem failHandshake_hsBuf (c : HsCause) (s : State) : (failHandshake c s).hsBuf = s.hsBuf := rfl
@[simp] theorem failHandshake_hsCnt (c : HsCause) (s : State) : (failHandshake c s).hsCnt = s.hsCnt := rfl
@[simp] theorem failHandshake_hsTimer (c : HsCause) (s : State) : (failHandshake c s).hsTimer = s.hsTimer := rfl
@[simp] theorem failHandshake_hsCause (c : HsCause) (s : State) : (failHandshake c s).hsCause = c := rfl
@[simp] theorem failHandshake_loop (c : HsCause) (s : State) : (failHandshake c s).loop = s.loop := rfl
@[simp] theorem failHandshake_rxbuf (c : HsCause) (s : State) : (failHandshake c s).rxbuf = s.rxbuf := rfl
@[simp] theorem failHandshake_rxLen (c : HsCause) (s : State) : (failHandshake c s).rxLen = s.rxLen := rfl
@[simp] theorem failHandshake_fChannel (c : HsCause) (s : State) : (failHandshake c s).fChannel = s.fChannel := rfl
@[simp] theorem failHandshake_fCommand (c : HsCause) (s : State) : (failHandshake c s).fCommand = s.fCommand := rfl
@[simp] theorem failHandshake_fLen (c : HsCause) (s : State) : (failHandshake c s).fLen = s.fLen := rfl
@[simp] theorem failHandshake_adaCnt (c : HsCause) (s : State) : (failHandshake c s).adaCnt = s.adaCnt := rfl
@[simp] theorem failHandshake_adaCk (c : HsCause) (s : State) : (failHandshake c s).adaCk = s.adaCk := rfl
@[simp] theorem failHandshake_fl1 (c : HsCause) (s : State) : (failHandshake c s).fl1 = s.fl1 := rfl
@[simp] theorem failHandshake_fl2 (c : HsCause) (s : State) : (failHandshake c s).fl2 = s.fl2 := rfl
@[simp] theorem failHandshake_outbuf (c : HsCause) (s : State) : (failHandshake c s).outbuf = s.outbuf := rfl
@[simp] theorem failHandshake_outLen (c : HsCause) (s : State) : (failHandshake c s).outLen = s.outLen := rfl
@[simp] theorem failHandshake_txPtr (c : HsCause) (s : State) : (failHandshake c s).txPtr = s.txPtr := rfl
@[simp] theorem failHandshake_statusErr (c : HsCause) (s : State) : (failHandshake c s).statusErr = s.statusErr := rfl
@[simp] theorem failHandshake_statusWarn3 (c : HsCause) (s : State) : (failHandshake c s).statusWarn3 = s.statusWarn3 := rfl
@[simp] theorem failHandshake_tx (c : HsCause) (s : State) : (failHandshake c s).tx = s.tx := rfl
@[simp] theorem failHandshake_events (c : HsCause) (s : State) : (failHandshake c s).events = s.events := rfl
@[simp] theorem failHandshake_pulses (c : HsCause) (s : State) : (failHandshake c s).pulses = s.pulses := rfl
@[simp] theorem failHandshake_script (c : HsCause) (s : State) : (failHandshake c s).script = s.script := rfl

/-! ### `enterSend` -/

@[simp] theorem enterSend_rxbufSize (n : Nat) (s : State) : (enterSend n s).rxbufSize = s.rxbufSize := rfl
@[simp] theorem enterSend_straps (n : Nat) (s : State) : (enterSend n s).straps = s.straps := rfl
@[simp] theorem enterSend_cfgProtocol (n : Nat) (s : State) : (enterSend n s).cfgProtocol = s.cfgProtocol := rfl
@[simp] theorem enterSend_cfgChannel (n : Nat) (s : State) : (enterSend n s).cfgChannel = s.cfgChannel := rfl
@[simp] theorem enterSend_cfgHsTimeoutMs (n : Nat) (s : State) : (enterSend n s).cfgHsTimeoutMs = s.cfgHsTimeoutMs := rfl
@[simp] theorem enterSend_hs (n : Nat) (s : State) : (enterSend n s).hs = s.hs := rfl
@[simp] theorem enterSend_hsBuf (n : Nat) (s : State) : (enterSend n s).hsBuf = s.hsBuf := rfl
@[simp] theorem enterSend_hsCnt (n : Nat) (s : State) : (enterSend n s).hsCnt = s.hsCnt := rfl
@[simp] theorem enterSend_hsTimer (n : Nat) (s : State) : (enterSend n s).hsTimer = s.hsTimer := rfl
@[simp] theorem enterSend_hsCause (n : Nat) (s : State) : (enterSend n s).hsCause = s.hsCause := rfl
@[simp] theorem enterSend_loop (n : Nat) (s : State) : (enterSend n s).loop = .send := rfl
@[simp] theorem enterSend_rxbuf (n : Nat) (s : State) : (enterSend n s).rxbuf = s.rxbuf := rfl
@[simp] theorem enterSend_rxLen (n : Nat) (s : State) : (enterSend n s).rxLen = s.rxLen := rfl
@[simp] theorem enterSend_fChannel (n : Nat) (s : State) : (enterSend n s).fChannel = s.fChannel := rfl
@[simp] theorem enterSend_fCommand (n : Nat) (s : State) : (enterSend n s).fCommand = s.fCommand := rfl
@[simp] theorem enterSend_fLen (n : Nat) (s : State) : (enterSend n s).fLen = s.fLen := rfl
@[simp] theorem enterSend_adaCnt (n : Nat) (s : State) : (enterSend n s).adaCnt = s.adaCnt := rfl
@[simp] theorem enterSend_adaCk (n : Nat) (s : State) : (enterSend n s).adaCk = s.adaCk := rfl
@[simp] theorem enterSend_fl1 (n : Nat) (s : State) : (enterSend n s).fl1 = s.fl1 := rfl
@[simp] theorem enterSend_fl2 (n : Nat) (s : State) : (enterSend n s).fl2 = s.fl2 := rfl
@[simp] theorem enterSend_outbuf (n : Nat) (s : State) : (enterSend n s).outbuf = s.outbuf := rfl
@[simp] theorem enterSend_outLen (n : Nat) (s : State) : (enterSend n s).outLen = BitVec.ofNat 17 n := rfl
@[simp] theorem enterSend_txPtr (n : Nat) (s : State) : (enterSend n s).txPtr = 0 := rfl
@[simp] theorem enterSend_statusErr (n : Nat) (s : State) : (enterSend n s).statusErr = s.statusErr := rfl
@[simp] theorem enterSend_statusWarn3 (n : Nat) (s : State) : (enterSend n s).statusWarn3 = s.statusWarn3 := rfl
@[simp] theorem enterSend_tx (n : Nat) (s : State) : (enterSend n s).tx = s.tx := rfl
@[simp] theorem enterSend_events (n : Nat) (s : State) : (enterSend n s).events = s.events := rfl
@[simp] theorem enterSend_pulses (n : Nat) (s : State) : (enterSend n s).pulses = s.pulses := rfl
@[simp] theorem enterSend_script (n : Nat) (s : State) : (enterSend n s).script = s.script := rfl

/-! ### `receiveHsWord` -/

@[simp] theorem receiveHsWord_rxbufSize (b0 b1 b2 b3 : Byte) (s : State) : (receiveHsWord b0 b1 b2 b3 s).rxbufSize = s.rxbufSize := rfl
@[simp] theorem receiveHsWord_straps (b0 b1 b2 b3 : Byte) (s : State) : (receiveHsWord b0 b1 b2 b3 s).straps = s.straps := rfl
@[simp] theorem receiveHsWord_cfgProtocol (b0 b1 b2 b3 : Byte) (s : State) : (receiveHsWord b0 b1 b2 b3 s).cfgProtocol = s.cfgProtocol := rfl
@[simp] theorem receiveHsWord_cfgChannel (b0 b1 b2 b3 : Byte) (s : State) : (receiveHsWord b0 b1 b2 b3 s).cfgChannel = s.cfgChannel := rfl
@[simp] theorem receiveHsWord_cfgHsTimeoutMs (b0 b1 b2 b3 : Byte) (s : State) : (receiveHsWord b0 b1 b2 b3 s).cfgHsTimeoutMs = s.cfgHsTimeoutMs := rfl
@[simp] theorem receiveHsWord_hs (b0 b1 b2 b3 : Byte) (s : State) : (receiveHsWord b0 b1 b2 b3 s).hs = s.hs := rfl
@[simp] theorem receiveHsWord_hsBuf (b0 b1 b2 b3 : Byte) (s : State) : (receiveHsWord b0 b1 b2 b3 s).hsBuf = s.hsBuf.writeBytes 0 [b0, b1, b2, b3] := rfl
@[simp] theorem receiveHsWord_hsCnt (b0 b1 b2 b3 : Byte) (s : State) : (receiveHsWord b0 b1 b2 b3 s).hsCnt = 4 := rfl
@[simp] theorem receiveHsWord_hsTimer (b0 b1 b2 b3 : Byte) (s : State) : (receiveHsWord b0 b1 b2 b3 s).hsTimer = s.hsTimer := rfl
@[simp] theorem receiveHsWord_hsCause (b0 b1 b2 b3 : Byte) (s : State) : (receiveHsWord b0 b1 b2 b3 s).hsCause = s.hsCause := rfl
@[simp] theorem receiveHsWord_loop (b0 b1 b2 b3 : Byte) (s : State) : (receiveHsWord b0 b1 b2 b3 s).loop = s.loop := rfl
@[simp] theorem receiveHsWord_rxbuf (b0 b1 b2 b3 : Byte) (s : State) : (receiveHsWord b0 b1 b2 b3 s).rxbuf = s.rxbuf := rfl
@[simp] theorem receiveHsWord_rxLen (b0 b1 b2 b3 : Byte) (s : State) : (receiveHsWord b0 b1 b2 b3 s).rxLen = s.rxLen := rfl
@[simp] theorem receiveHsWord_fChannel (b0 b1 b2 b3 : Byte) (s : State) : (receiveHsWord b0 b1 b2 b3 s).fChannel = s.fChannel := rfl
@[simp] theorem receiveHsWord_fCommand (b0 b1 b2 b3 : Byte) (s : State) : (receiveHsWord b0 b1 b2 b3 s).fCommand = s.fCommand := rfl
@[simp] theorem receiveHsWord_fLen (b0 b1 b2 b3 : Byte) (s : State) : (receiveHsWord b0 b1 b2 b3 s).fLen = s.fLen := rfl
@[simp] theorem receiveHsWord_adaCnt (b0 b1 b2 b3 : Byte) (s : State) : (receiveHsWord b0 b1 b2 b3 s).adaCnt = s.adaCnt := rfl
@[simp] theorem receiveHsWord_adaCk (b0 b1 b2 b3 : Byte) (s : State) : (receiveHsWord b0 b1 b2 b3 s).adaCk = s.adaCk := rfl
@[simp] theorem receiveHsWord_fl1 (b0 b1 b2 b3 : Byte) (s : State) : (receiveHsWord b0 b1 b2 b3 s).fl1 = s.fl1 := rfl
@[simp] theorem receiveHsWord_fl2 (b0 b1 b2 b3 : Byte) (s : State) : (receiveHsWord b0 b1 b2 b3 s).fl2 = s.fl2 := rfl
@[simp] theorem receiveHsWord_outbuf (b0 b1 b2 b3 : Byte) (s : State) : (receiveHsWord b0 b1 b2 b3 s).outbuf = s.outbuf := rfl
@[simp] theorem receiveHsWord_outLen (b0 b1 b2 b3 : Byte) (s : State) : (receiveHsWord b0 b1 b2 b3 s).outLen = s.outLen := rfl
@[simp] theorem receiveHsWord_txPtr (b0 b1 b2 b3 : Byte) (s : State) : (receiveHsWord b0 b1 b2 b3 s).txPtr = s.txPtr := rfl
@[simp] theorem receiveHsWord_statusErr (b0 b1 b2 b3 : Byte) (s : State) : (receiveHsWord b0 b1 b2 b3 s).statusErr = s.statusErr := rfl
@[simp] theorem receiveHsWord_statusWarn3 (b0 b1 b2 b3 : Byte) (s : State) : (receiveHsWord b0 b1 b2 b3 s).statusWarn3 = s.statusWarn3 := rfl
@[simp] theorem receiveHsWord_tx (b0 b1 b2 b3 : Byte) (s : State) : (receiveHsWord b0 b1 b2 b3 s).tx = s.tx := rfl
@[simp] theorem receiveHsWord_events (b0 b1 b2 b3 : Byte) (s : State) : (receiveHsWord b0 b1 b2 b3 s).events = s.events := rfl
@[simp] theorem receiveHsWord_pulses (b0 b1 b2 b3 : Byte) (s : State) : (receiveHsWord b0 b1 b2 b3 s).pulses = s.pulses := rfl
@[simp] theorem receiveHsWord_script (b0 b1 b2 b3 : Byte) (s : State) : (receiveHsWord b0 b1 b2 b3 s).script = s.script := rfl

/-! ### `acceptFrame` -/

@[simp] theorem acceptFrame_rxbufSize (s : State) : (acceptFrame s).rxbufSize = s.rxbufSize := by
  unfold acceptFrame; by_cases h : warn3 s.fLen <;> simp [h, State.signal]
@[simp] theorem acceptFrame_straps (s : State) : (acceptFrame s).straps = s.straps := by
  unfold acceptFrame; by_cases h : warn3 s.fLen <;> simp [h, State.signal]
@[simp] theorem acceptFrame_cfgProtocol (s : State) : (acceptFrame s).cfgProtocol = s.cfgProtocol := by
  unfold acceptFrame; by_cases h : warn3 s.fLen <;> simp [h, State.signal]
@[simp] theorem acceptFrame_cfgChannel (s : State) : (acceptFrame s).cfgChannel = s.cfgChannel := by
  unfold acceptFrame; by_cases h : warn3 s.fLen <;> simp [h, State.signal]
@[simp] theorem acceptFrame_cfgHsTimeoutMs (s : State) : (acceptFrame s).cfgHsTimeoutMs = s.cfgHsTimeoutMs := by
  unfold acceptFrame; by_cases h : warn3 s.fLen <;> simp [h, State.signal]
@[simp] theorem acceptFrame_hs (s : State) : (acceptFrame s).hs = s.hs := by
  unfold acceptFrame; by_cases h : warn3 s.fLen <;> simp [h, State.signal]
@[simp] theorem acceptFrame_hsBuf (s : State) : (acceptFrame s).hsBuf = s.hsBuf := by
  unfold acceptFrame; by_cases h : warn3 s.fLen <;> simp [h, State.signal]
@[simp] theorem acceptFrame_hsCnt (s : State) : (acceptFrame s).hsCnt = s.hsCnt := by
  unfold acceptFrame; by_cases h : warn3 s.fLen <;> simp [h, State.signal]
@[simp] theorem acceptFrame_hsTimer (s : State) : (acceptFrame s).hsTimer = s.hsTimer := by
  unfold acceptFrame; by_cases h : warn3 s.fLen <;> simp [h, State.signal]
@[simp] theorem acceptFrame_hsCause (s : State) : (acceptFrame s).hsCause = s.hsCause := by
  unfold acceptFrame; by_cases h : warn3 s.fLen <;> simp [h, State.signal]
@[simp] theorem acceptFrame_loop (s : State) : (acceptFrame s).loop = .encode := by
  unfold acceptFrame; by_cases h : warn3 s.fLen <;> simp [h, State.signal]
@[simp] theorem acceptFrame_rxbuf (s : State) : (acceptFrame s).rxbuf = s.rxbuf := by
  unfold acceptFrame; by_cases h : warn3 s.fLen <;> simp [h, State.signal]
@[simp] theorem acceptFrame_rxLen (s : State) : (acceptFrame s).rxLen = s.rxLen := by
  unfold acceptFrame; by_cases h : warn3 s.fLen <;> simp [h, State.signal]
@[simp] theorem acceptFrame_fChannel (s : State) : (acceptFrame s).fChannel = s.fChannel := by
  unfold acceptFrame; by_cases h : warn3 s.fLen <;> simp [h, State.signal]
@[simp] theorem acceptFrame_fCommand (s : State) : (acceptFrame s).fCommand = s.fCommand := by
  unfold acceptFrame; by_cases h : warn3 s.fLen <;> simp [h, State.signal]
@[simp] theorem acceptFrame_fLen (s : State) : (acceptFrame s).fLen = s.fLen := by
  unfold acceptFrame; by_cases h : warn3 s.fLen <;> simp [h, State.signal]
@[simp] theorem acceptFrame_adaCnt (s : State) : (acceptFrame s).adaCnt = s.adaCnt := by
  unfold acceptFrame; by_cases h : warn3 s.fLen <;> simp [h, State.signal]
@[simp] theorem acceptFrame_adaCk (s : State) : (acceptFrame s).adaCk = s.adaCk := by
  unfold acceptFrame; by_cases h : warn3 s.fLen <;> simp [h, State.signal]
@[simp] theorem acceptFrame_fl1 (s : State) : (acceptFrame s).fl1 = s.fl1 := by
  unfold acceptFrame; by_cases h : warn3 s.fLen <;> simp [h, State.signal]
@[simp] theorem acceptFrame_fl2 (s : State) : (acceptFrame s).fl2 = s.fl2 := by
  unfold acceptFrame; by_cases h : warn3 s.fLen <;> simp [h, State.signal]
@[simp] theorem acceptFrame_outbuf (s : State) : (acceptFrame s).outbuf = s.outbuf := by
  unfold acceptFrame; by_cases h : warn3 s.fLen <;> simp [h, State.signal]
@[simp] theorem acceptFrame_outLen (s : State) : (acceptFrame s).outLen = s.outLen := by
  unfold acceptFrame; by_cases h : warn3 s.fLen <;> simp [h, State.signal]
@[simp] theorem acceptFrame_txPtr (s : State) : (acceptFrame s).txPtr = s.txPtr := by
  unfold acceptFrame; by_cases h : warn3 s.fLen <;> simp [h, State.signal]
@[simp] theorem acceptFrame_statusErr (s : State) : (acceptFrame s).statusErr = .ok := by
  unfold acceptFrame; by_cases h : warn3 s.fLen <;> simp [h, State.signal]
@[simp] theorem acceptFrame_statusWarn3 (s : State) : (acceptFrame s).statusWarn3 = warn3 s.fLen := by
  unfold acceptFrame; by_cases h : warn3 s.fLen <;> simp [h, State.signal]
@[simp] theorem acceptFrame_tx (s : State) : (acceptFrame s).tx = s.tx := by
  unfold acceptFrame; by_cases h : warn3 s.fLen <;> simp [h, State.signal]
@[simp] theorem acceptFrame_events (s : State) : (acceptFrame s).events = s.events ++ (if warn3 s.fLen then [.accept, .warn] else [.accept]) := by
  unfold acceptFrame; by_cases h : warn3 s.fLen <;> simp [h, State.signal]
@[simp] theorem acceptFrame_pulses (s : State) : (acceptFrame s).pulses = { s.pulses with accept := true, warn := warn3 s.fLen || s.pulses.warn } := by
  unfold acceptFrame; by_cases h : warn3 s.fLen <;> simp [h, State.signal]
@[simp] theorem acceptFrame_script (s : State) : (acceptFrame s).script = s.script := by
  unfold acceptFrame; by_cases h : warn3 s.fLen <;> simp [h, State.signal]

/-! ### `freshState` -/

@[simp] theorem freshState_rxbufSize (n : Nat) (st : Straps) (sc : List Stimulus) : (freshState n st sc).rxbufSize = n := rfl
@[simp] theorem freshState_straps (n : Nat) (st : Straps) (sc : List Stimulus) : (freshState n st sc).straps = st := rfl
@[simp] theorem freshState_cfgProtocol (n : Nat) (st : Straps) (sc : List Stimulus) : (freshState n st sc).cfgProtocol = st.cfgProtocol := rfl
@[simp] theorem freshState_cfgChannel (n : Nat) (st : Straps) (sc : List Stimulus) : (freshState n st sc).cfgChannel = st.cfgChannel := rfl
@[simp] theorem freshState_cfgHsTimeoutMs (n : Nat) (st : Straps) (sc : List Stimulus) : (freshState n st sc).cfgHsTimeoutMs = st.cfgHsTimeoutMs := rfl
@[simp] theorem freshState_hs (n : Nat) (st : Straps) (sc : List Stimulus) : (freshState n st sc).hs = initialHs st.cfgProtocol := rfl
@[simp] theorem freshState_hsBuf (n : Nat) (st : Straps) (sc : List Stimulus) : (freshState n st sc).hsBuf = Mem.empty := rfl
@[simp] theorem freshState_hsCnt (n : Nat) (st : Straps) (sc : List Stimulus) : (freshState n st sc).hsCnt = 0 := rfl
@[simp] theorem freshState_hsTimer (n : Nat) (st : Straps) (sc : List Stimulus) : (freshState n st sc).hsTimer = 0 := rfl
@[simp] theorem freshState_hsCause (n : Nat) (st : Straps) (sc : List Stimulus) : (freshState n st sc).hsCause = initialCause st.cfgProtocol := rfl
@[simp] theorem freshState_loop (n : Nat) (st : Straps) (sc : List Stimulus) : (freshState n st sc).loop = .idle := rfl
@[simp] theorem freshState_rxbuf (n : Nat) (st : Straps) (sc : List Stimulus) : (freshState n st sc).rxbuf = Mem.empty := rfl
@[simp] theorem freshState_rxLen (n : Nat) (st : Straps) (sc : List Stimulus) : (freshState n st sc).rxLen = 0 := rfl
@[simp] theorem freshState_fChannel (n : Nat) (st : Straps) (sc : List Stimulus) : (freshState n st sc).fChannel = 0 := rfl
@[simp] theorem freshState_fCommand (n : Nat) (st : Straps) (sc : List Stimulus) : (freshState n st sc).fCommand = 0 := rfl
@[simp] theorem freshState_fLen (n : Nat) (st : Straps) (sc : List Stimulus) : (freshState n st sc).fLen = 0 := rfl
@[simp] theorem freshState_adaCnt (n : Nat) (st : Straps) (sc : List Stimulus) : (freshState n st sc).adaCnt = 0 := rfl
@[simp] theorem freshState_adaCk (n : Nat) (st : Straps) (sc : List Stimulus) : (freshState n st sc).adaCk = 0 := rfl
@[simp] theorem freshState_fl1 (n : Nat) (st : Straps) (sc : List Stimulus) : (freshState n st sc).fl1 = 0 := rfl
@[simp] theorem freshState_fl2 (n : Nat) (st : Straps) (sc : List Stimulus) : (freshState n st sc).fl2 = 0 := rfl
@[simp] theorem freshState_outbuf (n : Nat) (st : Straps) (sc : List Stimulus) : (freshState n st sc).outbuf = Mem.empty := rfl
@[simp] theorem freshState_outLen (n : Nat) (st : Straps) (sc : List Stimulus) : (freshState n st sc).outLen = 0 := rfl
@[simp] theorem freshState_txPtr (n : Nat) (st : Straps) (sc : List Stimulus) : (freshState n st sc).txPtr = 0 := rfl
@[simp] theorem freshState_statusErr (n : Nat) (st : Straps) (sc : List Stimulus) : (freshState n st sc).statusErr = .ok := rfl
@[simp] theorem freshState_statusWarn3 (n : Nat) (st : Straps) (sc : List Stimulus) : (freshState n st sc).statusWarn3 = false := rfl
@[simp] theorem freshState_tx (n : Nat) (st : Straps) (sc : List Stimulus) : (freshState n st sc).tx = [] := rfl
@[simp] theorem freshState_events (n : Nat) (st : Straps) (sc : List Stimulus) : (freshState n st sc).events = [] := rfl
@[simp] theorem freshState_pulses (n : Nat) (st : Straps) (sc : List Stimulus) : (freshState n st sc).pulses = Pulses.none := rfl
@[simp] theorem freshState_script (n : Nat) (st : Straps) (sc : List Stimulus) : (freshState n st sc).script = sc := rfl

/-! ### Reset -/

/-- `RESET` forgets everything but the parameter, the straps and the script. -/
theorem resetWith_eq (st : Straps) (s : State) : resetWith st s = freshState s.rxbufSize st s.script := rfl

/-- `State.reset` is the state after `RESET` with the values of `Config`. -/
theorem reset_eq_freshState :
    State.reset = freshState Config.resetRxbufSize
      { cfgProtocol := Config.resetProtocol, cfgChannel := Config.resetChannel
        cfgHsTimeoutMs := Config.defaultHsTimeoutMs } [] := rfl

end Sys2Proof.Machine
end

