-- ==== Sys2Proof/Laws/Ops.lean ====
section
/-! SUPPORT. What each shared operation can do, said once: the provers cite these and do not unfold the operations. -/

namespace Sys2Proof.Machine

open Sys2Proof

/-! ### Outcomes -/

@[simp] theorem andThen_next (s : State) (k : State → Out) : andThen (.next s) k = k s := rfl

theorem andThen_eq_next {o : Out} {k : State → Out} {t : State} (h : andThen o k = .next t) :
    ∃ s, o = .next s ∧ k s = .next t := by
  cases o with
  | next s => exact ⟨s, rfl, h⟩
  | fault r => cases h
  | refused r => cases h

@[simp] theorem withAccess_ok {α : Type} (a : α) (k : α → Out) : withAccess (.ok a) k = k a := rfl

theorem withAccess_eq_next {α : Type} {r : Except Fault α} {k : α → Out} {t : State}
    (h : withAccess r k = .next t) : ∃ a, r = .ok a ∧ k a = .next t := by
  cases r with
  | ok a => exact ⟨a, rfl, h⟩
  | error f => cases h

/-! ### DECODE -/

/-- Out of its phase `DECODE` does nothing. -/
theorem decodeDatagram_disabled {s : State} (h : s.loop ≠ .decode) (channel command : Byte) (n : Half) :
    decodeDatagram channel command n s = s := by
  simp [decodeDatagram, h]

/-- Everything `DECODE` can do, in the order of its checks. -/
theorem decodeDatagram_cases (channel command : Byte) (n : Half) (s : State) (h : s.loop = .decode) :
    (s.rxLen < 4 ∧ decodeDatagram channel command n s = raiseError .tooShort s) ∨
    (4 ≤ s.rxLen ∧ (channel ≠ 0#8 ∧ channel ≠ s.cfgChannel) ∧
      decodeDatagram channel command n s = raiseError .channelMismatch { s with fChannel := channel }) ∨
    (4 ≤ s.rxLen ∧ ¬ (channel ≠ 0#8 ∧ channel ≠ s.cfgChannel) ∧ command ≠ 0#8 ∧
      decodeDatagram channel command n s =
        raiseError .unsupportedCommand { s with fChannel := channel, fCommand := command }) ∨
    (4 ≤ s.rxLen ∧ ¬ (channel ≠ 0#8 ∧ channel ≠ s.cfgChannel) ∧ command = 0#8 ∧ s.rxbufSize < 4 + n.toNat ∧
      decodeDatagram channel command n s =
        raiseError .payloadTooLarge { s with fChannel := channel, fCommand := command, fLen := n }) ∨
    (4 ≤ s.rxLen ∧ ¬ (channel ≠ 0#8 ∧ channel ≠ s.cfgChannel) ∧ command = 0#8 ∧ 4 + n.toNat ≤ s.rxbufSize ∧
      s.rxLen < 4 + n.toNat ∧
      decodeDatagram channel command n s =
        raiseError .truncatedPayload { s with fChannel := channel, fCommand := command, fLen := n }) ∨
    (4 ≤ s.rxLen ∧ ¬ (channel ≠ 0#8 ∧ channel ≠ s.cfgChannel) ∧ command = 0#8 ∧ 4 + n.toNat ≤ s.rxbufSize ∧
      4 + n.toNat ≤ s.rxLen ∧
      decodeDatagram channel command n s =
        acceptFrame { s with fChannel := channel, fCommand := command, fLen := n }) := by
  unfold decodeDatagram
  rw [if_neg (not_not.2 h)]
  by_cases h1 : s.rxLen < 4
  · exact .inl ⟨h1, by rw [if_pos h1]⟩
  rw [if_neg h1]
  by_cases h2 : channel ≠ 0#8 ∧ channel ≠ s.cfgChannel
  · exact .inr (.inl ⟨by omega, h2, by rw [if_pos h2]⟩)
  rw [if_neg h2]
  by_cases h3 : command ≠ 0#8
  · exact .inr (.inr (.inl ⟨by omega, h2, h3, by rw [if_pos h3]⟩))
  rw [if_neg h3]
  by_cases h4 : 4 + n.toNat > s.rxbufSize
  · exact .inr (.inr (.inr (.inl ⟨by omega, h2, not_not.1 h3, h4, by rw [if_pos h4]⟩)))
  rw [if_neg h4]
  by_cases h5 : 4 + n.toNat > s.rxLen
  · exact .inr (.inr (.inr (.inr (.inl ⟨by omega, h2, not_not.1 h3, by omega, h5, by rw [if_pos h5]⟩))))
  · exact .inr (.inr (.inr (.inr (.inr ⟨by omega, h2, not_not.1 h3, by omega, by omega, by rw [if_neg h5]⟩))))

/-- `DECODE` writes the frame registers, `STATUS`, `LOOP` and the events only. -/
theorem decodeDatagram_frame (channel command : Byte) (n : Half) (s : State) :
    let t := decodeDatagram channel command n s
    t = { s with
          fChannel := t.fChannel, fCommand := t.fCommand, fLen := t.fLen, statusErr := t.statusErr
          statusWarn3 := t.statusWarn3, loop := t.loop, events := t.events, pulses := t.pulses } := by
  by_cases h : s.loop = .decode
  · rcases decodeDatagram_cases channel command n s h with
      ⟨-, e⟩ | ⟨-, -, e⟩ | ⟨-, -, -, e⟩ | ⟨-, -, -, -, e⟩ | ⟨-, -, -, -, -, e⟩ | ⟨-, -, -, -, -, e⟩ <;>
      simp only [e]
    all_goals first | rfl | (unfold acceptFrame; split <;> rfl)
  · rw [decodeDatagram_disabled h]

/-! ### Laying out -/

/-- What fits `OUTBUF`: no more than `RXBUF_SIZE` + 4 bytes and no more than the longest frame (R6). -/
theorem le_outbufSize_iff {n : Nat} (s : State) : n ≤ s.outbufSize ↔ n ≤ s.rxbufSize + 4 ∧ n ≤ 65543 := le_min_iff

/-- A layout inside `OUTBUF` goes on with the bytes written. -/
theorem layOut_eq {a : Nat} {w : List Byte} {s : State} (h : a + w.length ≤ s.outbufSize) (k : State → Out) :
    layOut a w s k = k { s with outbuf := s.outbuf.writeBytes a w } := by
  simp [layOut, storeBytes, h]

theorem layOut_eq_next {a : Nat} {w : List Byte} {s t : State} {k : State → Out} (h : layOut a w s k = .next t) :
    a + w.length ≤ s.outbufSize ∧ k { s with outbuf := s.outbuf.writeBytes a w } = .next t := by
  obtain ⟨m, hm, hk⟩ := withAccess_eq_next h
  obtain ⟨hs, rfl⟩ := (storeBytes_ok_iff ..).1 hm
  exact ⟨hs, hk⟩

/-- A frame that fits `OUTBUF` is its bytes written one after the other from index 0. -/
theorem layFrame_eq {header payload footer : List Byte} {s : State}
    (h : header.length + payload.length + footer.length ≤ s.outbufSize) (k : State → Out) :
    layFrame header payload footer s k =
      k { s with outbuf := s.outbuf.writeBytes 0 (header ++ payload ++ footer) } := by
  have hs (m : Mem) : ({ s with outbuf := m } : State).outbufSize = s.outbufSize := rfl
  unfold layFrame
  rw [layOut_eq (by omega), layOut_eq (by rw [hs]; omega), layOut_eq (by rw [hs]; omega)]
  simp [Mem.writeBytes_append]

theorem layFrame_eq_next {header payload footer : List Byte} {s t : State} {k : State → Out}
    (h : layFrame header payload footer s k = .next t) :
    header.length + payload.length + footer.length ≤ s.outbufSize ∧
      k { s with outbuf := s.outbuf.writeBytes 0 (header ++ payload ++ footer) } = .next t := by
  obtain ⟨-, h⟩ := layOut_eq_next h
  obtain ⟨-, h⟩ := layOut_eq_next h
  obtain ⟨hs, h⟩ := layOut_eq_next h
  refine ⟨hs, ?_⟩
  rw [← h]
  simp [Mem.writeBytes_append]

/-- The payload of an instruction that found it: `F_LEN` bytes inside `RXBUF`. -/
theorem State.payload_ok_iff (s : State) (p : List Byte) :
    s.payload = .ok p ↔
      p.length = s.fLen.toNat ∧ ∀ i < s.fLen.toNat, 4 + i < s.rxbufSize ∧ s.rxbuf.read (4 + i) = p[i]? :=
  loadBytes_ok_iff ..

/-! ### Transmission -/

theorem sendByte_disabled {s : State} (h : s.loop ≠ .send) (b : Byte) : sendByte b s = s := by
  simp [sendByte, h]

/-- One byte sent: the last one ends the frame. -/
theorem sendByte_send {s : State} (h : s.loop = .send) (b : Byte) :
    sendByte b s =
      if s.txPtr + 1 = s.outLen then
        { s with
          tx := s.tx ++ [b]
          txPtr := s.txPtr + 1
          loop := .idle
          events := s.events ++ [.sent (s.tx ++ [b]).length]
          pulses := { s.pulses with sent := true } }
      else { s with tx := s.tx ++ [b], txPtr := s.txPtr + 1 } := by
  rw [sendByte, if_pos h]
  rfl

/-- A send writes `TX`, `TX_PTR`, `LOOP` and the events only. -/
theorem sendByte_frame (b : Byte) (s : State) :
    let t := sendByte b s
    t = { s with tx := t.tx, txPtr := t.txPtr, loop := t.loop, events := t.events, pulses := t.pulses } := by
  by_cases h : s.loop = .send
  · simp only [sendByte_send h]
    split <;> rfl
  · rw [sendByte_disabled h]

theorem sendBytes_disabled {s : State} (h : s.loop ≠ .send) (w : List Byte) : sendBytes w s = s := by
  induction w with
  | nil => rfl
  | cons b w ih => rw [sendBytes, sendByte_disabled h, ih]

theorem txPtr_succ {s : State} (h : s.txPtr.toNat < s.outLen.toNat) :
    (s.txPtr + 1).toNat = s.txPtr.toNat + 1 := by
  have := s.outLen.isLt
  rw [BitVec.toNat_add, show (1 : FrameIndex).toNat = 1 from rfl]
  omega

theorem txPtr_succ_eq_iff {s : State} (h : s.txPtr.toNat < s.outLen.toNat) :
    s.txPtr + 1 = s.outLen ↔ s.txPtr.toNat + 1 = s.outLen.toNat := by
  rw [← BitVec.toNat_inj, txPtr_succ h]

/-- Bytes sent from within a frame: all of them reach `TX`, and the frame ends when they reach `OUT_LEN`. -/
theorem sendBytes_send (w : List Byte) (s : State) (hl : s.loop = .send) (hw : w ≠ [])
    (h : s.txPtr.toNat + w.length ≤ s.outLen.toNat) :
    sendBytes w s =
      if s.txPtr.toNat + w.length = s.outLen.toNat then
        { s with
          tx := s.tx ++ w
          txPtr := s.outLen
          loop := .idle
          events := s.events ++ [.sent (s.tx.length + w.length)]
          pulses := { s.pulses with sent := true } }
      else { s with tx := s.tx ++ w, txPtr := s.txPtr + BitVec.ofNat 17 w.length } := by
  induction w generalizing s with
  | nil => exact absurd rfl hw
  | cons b w ih =>
    simp only [List.length_cons] at h ⊢
    have hlt : s.txPtr.toNat < s.outLen.toNat := by omega
    rw [sendBytes, sendByte_send hl]
    cases w with
    | nil =>
      simp only [sendBytes, txPtr_succ_eq_iff hlt, List.length_nil, Nat.zero_add]
      split
      · rename_i heq
        rw [(txPtr_succ_eq_iff hlt).2 heq]
        simp
      · rfl
    | cons c w =>
      have hne : ¬ s.txPtr + 1 = s.outLen := by
        rw [txPtr_succ_eq_iff hlt]
        simp only [List.length_cons] at h
        omega
      rw [if_neg hne, ih _ (by exact hl) (by simp)
        (by show (s.txPtr + 1).toNat + _ ≤ s.outLen.toNat; rw [txPtr_succ hlt]; omega)]
      show (if (s.txPtr + 1).toNat + _ = _ then _ else _) = _
      rw [txPtr_succ hlt]
      have e1 : s.txPtr.toNat + 1 + (c :: w).length = s.txPtr.toNat + ((c :: w).length + 1) := by omega
      have e2 : s.txPtr + 1 + BitVec.ofNat 17 (c :: w).length = s.txPtr + BitVec.ofNat 17 ((c :: w).length + 1) := by
        rw [BitVec.add_assoc, BitVec.ofNat_add, BitVec.add_comm (BitVec.ofNat 17 (c :: w).length)]
        rfl
      have e3 : (s.tx ++ [b]).length + (c :: w).length = s.tx.length + ((c :: w).length + 1) := by
        simp only [List.length_append, List.length_cons, List.length_nil]
        omega
      have e4 : s.tx ++ [b] ++ c :: w = s.tx ++ b :: c :: w := by simp
      simp only [e1, e2, e3, e4]

theorem txBeat_disabled {s : State} (h : s.loop ≠ .send) : txBeat s = .next s := by
  simp [txBeat, h]

theorem txBeats_disabled {s : State} (h : s.loop ≠ .send) (k : Nat) : txBeats k s = .next s := by
  induction k with
  | zero => rfl
  | succ k ih => rw [txBeats, txBeat_disabled h, andThen_next, ih]

/-- `TX_BEAT` in `SEND` sends the byte at `TX_PTR`. -/
theorem txBeat_send {s : State} (hl : s.loop = .send) {b : Byte} (ha : s.txPtr.toNat < s.outbufSize)
    (hb : s.outbuf.read s.txPtr.toNat = some b) : txBeat s = .next (sendByte b s) := by
  simp [txBeat, hl, (loadByte_ok_iff .outbuf ..).2 ⟨ha, hb⟩]

theorem txBeat_eq_next {s t : State} (h : txBeat s = .next t) : t = s ∨ ∃ b, t = sendByte b s := by
  unfold txBeat at h
  split at h
  · obtain ⟨b, -, hb⟩ := withAccess_eq_next h
    cases hb
    exact .inr ⟨b, rfl⟩
  · cases h
    exact .inl rfl

/-- Beats over bytes that `OUTBUF` holds are those bytes sent. -/
theorem txBeats_eq_sendBytes (w : List Byte) (s : State) (hl : s.loop = .send)
    (h : s.txPtr.toNat + w.length ≤ s.outLen.toNat) (hs : s.outLen.toNat ≤ s.outbufSize)
    (hw : ∀ j < w.length, s.outbuf.read (s.txPtr.toNat + j) = w[j]?) :
    txBeats w.length s = .next (sendBytes w s) := by
  induction w generalizing s with
  | nil => rfl
  | cons b w ih =>
    simp only [List.length_cons] at h hw ⊢
    have hlt : s.txPtr.toNat < s.outLen.toNat := by omega
    have h0 := hw 0 (by omega)
    simp only [Nat.add_zero, List.getElem?_cons_zero] at h0
    rw [txBeats, txBeat_send hl (by omega) h0, andThen_next, sendBytes]
    by_cases hd : (sendByte b s).loop = .send
    · have hne : ¬ s.txPtr + 1 = s.outLen := by
        intro e
        rw [sendByte_send hl, if_pos e] at hd
        cases hd
      have e : sendByte b s = { s with tx := s.tx ++ [b], txPtr := s.txPtr + 1 } := by
        rw [sendByte_send hl, if_neg hne]
      have hp : (sendByte b s).txPtr.toNat = s.txPtr.toNat + 1 := by
        rw [e]
        exact txPtr_succ hlt
      refine ih _ hd ?_ ?_ ?_
      · rw [hp, e]
        show s.txPtr.toNat + 1 + w.length ≤ s.outLen.toNat
        omega
      · rw [e]
        exact hs
      · intro j hj
        have := hw (j + 1) (by omega)
        rw [List.getElem?_cons_succ] at this
        rw [hp, e, ← this]
        show s.outbuf.read _ = _
        congr 1
        omega
    · rw [txBeats_disabled hd, sendBytes_disabled hd]

/-! ### Reception -/

theorem rxDatagram_enabled {s : State} (h : s.hs = .ready) (hl : s.loop = .idle) (d : List Byte) :
    rxDatagram d s =
      { s with
        rxLen := min d.length s.rxbufSize
        rxbuf := s.rxbuf.writeBytes 0 (d.take s.rxbufSize)
        loop := .decode } := by
  simp [rxDatagram, h, hl]

theorem rxDatagram_disabled {s : State} (h : ¬ (s.hs = .ready ∧ s.loop = .idle)) (d : List Byte) :
    rxDatagram d s = s := by
  simp only [rxDatagram, if_neg h]

theorem dgReady_iff (s : State) : dgReady s = true ↔ s.hs = .ready ∧ (s.loop = .idle ∨ s.loop = .recv) := by
  simp [dgReady]

theorem rxBeat_disabled {s : State} (h : dgReady s = false) (b : Byte) (keep last : Bool) :
    rxBeat b keep last s = s := by
  simp [rxBeat, h]

/-- A beat writes `RXBUF`, `RX_LEN` and `LOOP` only. -/
theorem rxBeat_frame (b : Byte) (keep last : Bool) (s : State) :
    let t := rxBeat b keep last s
    t = { s with rxbuf := t.rxbuf, rxLen := t.rxLen, loop := t.loop } := by
  by_cases h : dgReady s = true
  · simp only [rxBeat, h, if_true, appendBeat]
    by_cases hi : s.loop = .idle <;> simp only [hi, if_true, if_false] <;> split <;> simp_all
  · rw [rxBeat_disabled (by simpa using h)]

/-! ### Handshake -/

theorem hsTimeout_disabled {s : State} (h : s.hs ≠ .awaiting) : hsTimeout s = s := by
  simp [hsTimeout, h]

theorem hsTick_disabled {s : State} (h : s.hs ≠ .awaiting) : hsTick s = s := by
  simp [hsTick, h]

theorem hsRxByte_disabled {s : State} (h : s.hs ≠ .awaiting) (b : Byte) : hsRxByte b s = .next s := by
  simp [hsRxByte, h]

/-- The time-out writes `HS` and `HS_CAUSE` only. -/
theorem hsTimeout_frame (s : State) :
    let t := hsTimeout s
    t = { s with hs := t.hs, hsCause := t.hsCause } := by
  by_cases h : s.hs = .awaiting
  · simp only [hsTimeout, h, if_true]
    rfl
  · rw [hsTimeout_disabled h]

/-- A tick writes `HS_TIMER`, `HS` and `HS_CAUSE` only. -/
theorem hsTick_frame (s : State) :
    let t := hsTick s
    t = { s with hsTimer := t.hsTimer, hs := t.hs, hsCause := t.hsCause } := by
  by_cases h : s.hs = .awaiting
  · simp only [hsTick, h, if_true]
    split
    · rw [hsTimeout_frame]
    · simp
  · rw [hsTick_disabled h]

end Sys2Proof.Machine
end

