-- ==== Sys2Proof/Laws/Exec.lean ====
section
/-! SUPPORT. What each meaning, each turn and each stimulus can do, said once: if it answers next `t`, then one of these cases
holds. -/

namespace Sys2Proof.Machine

open Sys2Proof Sys2Proof.Safety

/-! ### The meanings -/

theorem unsupportedCommand1_eq : ∀ low : BitVec 1, unsupportedCommand low = BitVec.ofNat 8 (2 + low.toNat) := by decide
theorem unsupportedCommand2_eq : ∀ low : BitVec 2, unsupportedCommand low = BitVec.ofNat 8 (4 + low.toNat) := by decide
theorem unsupportedCommand3_eq : ∀ low : BitVec 3, unsupportedCommand low = BitVec.ofNat 8 (8 + low.toNat) := by decide
theorem unsupportedCommand4_eq : ∀ low : BitVec 4, unsupportedCommand low = BitVec.ofNat 8 (16 + low.toNat) := by decide +kernel
theorem unsupportedCommand5_eq : ∀ low : BitVec 5, unsupportedCommand low = BitVec.ofNat 8 (32 + low.toNat) := by decide +kernel
theorem unsupportedCommand6_eq : ∀ low : BitVec 6, unsupportedCommand low = BitVec.ofNat 8 (64 + low.toNat) := by decide +kernel
theorem unsupportedCommand7_eq : ∀ low : BitVec 7, unsupportedCommand low = BitVec.ofNat 8 (128 + low.toNat) := by decide +kernel

/-- Every `OPC_HDR` instruction is `DECODE` on its header. -/
theorem exec_opc {i : Instr} {channel command : Byte} {n : Half}
    (h : opcFields i = some (channel, command, n)) (s : State) :
    exec i s = .next (decodeDatagram channel command n s) := by
  cases i <;> simp only [opcFields, Option.some.injEq, Prod.mk.injEq, reduceCtorEq] at h
  all_goals obtain ⟨rfl, rfl, rfl⟩ := h
  · rfl
  · rfl
  · rw [← unsupportedCommand1_eq]; rfl
  · rw [← unsupportedCommand2_eq]; rfl
  · rw [← unsupportedCommand3_eq]; rfl
  · rw [← unsupportedCommand4_eq]; rfl
  · rw [← unsupportedCommand5_eq]; rfl
  · rw [← unsupportedCommand6_eq]; rfl
  · rw [← unsupportedCommand7_eq]; rfl

/-- The decoder answers an `OPC_HDR` instruction for every header, with the header's own fields. -/
theorem opcFields_decodeOpc (channel command : Byte) (n : Half) :
    opcFields (decodeOpc channel command n) = some (channel, command, n) := by
  have h7 : ∀ c : Byte, c.getLsbD 7 = true → BitVec.ofNat 8 (0x80 + (c.extractLsb' 0 7).toNat) = c := by decide +kernel
  have h6 : ∀ c : Byte, c.getLsbD 7 = false → c.getLsbD 6 = true →
      BitVec.ofNat 8 (0x40 + (c.extractLsb' 0 6).toNat) = c := by decide +kernel
  have h5 : ∀ c : Byte, c.getLsbD 7 = false → c.getLsbD 6 = false → c.getLsbD 5 = true →
      BitVec.ofNat 8 (0x20 + (c.extractLsb' 0 5).toNat) = c := by decide +kernel
  have h4 : ∀ c : Byte, c.getLsbD 7 = false → c.getLsbD 6 = false → c.getLsbD 5 = false → c.getLsbD 4 = true →
      BitVec.ofNat 8 (0x10 + (c.extractLsb' 0 4).toNat) = c := by decide +kernel
  have h3 : ∀ c : Byte, c.getLsbD 7 = false → c.getLsbD 6 = false → c.getLsbD 5 = false → c.getLsbD 4 = false →
      c.getLsbD 3 = true → BitVec.ofNat 8 (0x08 + (c.extractLsb' 0 3).toNat) = c := by decide +kernel
  have h2 : ∀ c : Byte, c.getLsbD 7 = false → c.getLsbD 6 = false → c.getLsbD 5 = false → c.getLsbD 4 = false →
      c.getLsbD 3 = false → c.getLsbD 2 = true →
      BitVec.ofNat 8 (0x04 + (c.extractLsb' 0 2).toNat) = c := by decide +kernel
  have h1 : ∀ c : Byte, c.getLsbD 7 = false → c.getLsbD 6 = false → c.getLsbD 5 = false → c.getLsbD 4 = false →
      c.getLsbD 3 = false → c.getLsbD 2 = false → c.getLsbD 1 = true →
      BitVec.ofNat 8 (0x02 + (c.extractLsb' 0 1).toNat) = c := by decide +kernel
  have h0 : ∀ c : Byte, c.getLsbD 7 = false → c.getLsbD 6 = false → c.getLsbD 5 = false → c.getLsbD 4 = false →
      c.getLsbD 3 = false → c.getLsbD 2 = false → c.getLsbD 1 = false →
      (if c.getLsbD 0 then 0x01#8 else 0x00#8) = c := by decide +kernel
  unfold decodeOpc
  split
  · rename_i e7
    simp only [opcFields, h7 _ e7]
  split
  · rename_i e7 e6
    simp only [opcFields, h6 _ (by simpa using e7) e6]
  split
  · rename_i e7 e6 e5
    simp only [opcFields, h5 _ (by simpa using e7) (by simpa using e6) e5]
  split
  · rename_i e7 e6 e5 e4
    simp only [opcFields, h4 _ (by simpa using e7) (by simpa using e6) (by simpa using e5) e4]
  split
  · rename_i e7 e6 e5 e4 e3
    simp only [opcFields, h3 _ (by simpa using e7) (by simpa using e6) (by simpa using e5) (by simpa using e4) e3]
  split
  · rename_i e7 e6 e5 e4 e3 e2
    simp only [opcFields, h2 _ (by simpa using e7) (by simpa using e6) (by simpa using e5) (by simpa using e4)
      (by simpa using e3) e2]
  split
  · rename_i e7 e6 e5 e4 e3 e2 e1
    simp only [opcFields, h1 _ (by simpa using e7) (by simpa using e6) (by simpa using e5) (by simpa using e4)
      (by simpa using e3) (by simpa using e2) e1]
  rename_i e7 e6 e5 e4 e3 e2 e1
  have e := h0 command (by simpa using e7) (by simpa using e6) (by simpa using e5) (by simpa using e4)
    (by simpa using e3) (by simpa using e2) (by simpa using e1)
  split at e
  · rename_i e0
    rw [if_pos e0, opcFields, e]
  · rename_i e0
    rw [if_neg e0, opcFields, e]

/-- Every emitted row is its word laid out or sent. -/
theorem exec_emitted {i : Instr} {s : State} {a : Nat} {w : List Byte}
    (h : emittedWord s.fLen.toNat i = some (a, w)) : exec i s = emitWord a w s := by
  cases i <;> simp only [emittedWord, Option.some.injEq, Prod.mk.injEq, reduceCtorEq] at h
  all_goals obtain ⟨rfl, rfl⟩ := h; rfl

/-- An emitted word in `SEND` is its bytes sent. -/
theorem emitWord_send {s : State} (h : s.loop = .send) (a : Nat) (w : List Byte) :
    emitWord a w s = .next (sendBytes w s) := by
  simp [emitWord, h]

/-- An emitted word in `ENCODE` is its bytes laid out. -/
theorem emitWord_encode {s : State} (h : s.loop = .encode) (a : Nat) (w : List Byte) :
    emitWord a w s = layOut a w s .next := by
  simp [emitWord, h]

/-- What an encoder that ran leaves (R144, R153, R162). -/
inductive Encoded (s : State) : State → Prop where
  | adalight (p : List Byte) (hp : s.payload = .ok p)
      (hs : 6 + p.length ≤ s.outbufSize) :
      Encoded s (enterSend (6 + s.fLen.toNat)
        { s with
          adaCnt := countField s.fLen
          adaCk := adaXor (countField s.fLen)
          outbuf := s.outbuf.writeBytes 0 (adaHeaderBytes 0x64#8 (countField s.fLen) (adaXor (countField s.fLen)) ++ p) })
  | awa (p : List Byte) (hp : s.payload = .ok p)
      (hs : 8 + p.length ≤ s.outbufSize) :
      Encoded s (enterSend (8 + s.fLen.toNat)
        { s with
          adaCnt := countField s.fLen
          adaCk := adaXor (countField s.fLen)
          fl1 := (fletcher16 p).1
          fl2 := (fletcher16 p).2
          outbuf := s.outbuf.writeBytes 0
            (adaHeaderBytes 0x77#8 (countField s.fLen) (adaXor (countField s.fLen)) ++ p ++
              [(fletcher16 p).1, (fletcher16 p).2]) })
  | tpm2 (p : List Byte) (hp : s.payload = .ok p)
      (hs : 5 + p.length ≤ s.outbufSize) :
      Encoded s (enterSend (5 + s.fLen.toNat)
        { s with outbuf := s.outbuf.writeBytes 0 (tpm2HeaderBytes s.fLen ++ p ++ [0x36#8]) })

theorem execEncAdalight_eq {s : State} (h : s.loop = .encode) {p : List Byte} (hp : s.payload = .ok p)
    (hs : 6 + p.length ≤ s.outbufSize) :
    execEncAdalight s = .next (enterSend (6 + s.fLen.toNat)
      { s with
        adaCnt := countField s.fLen
        adaCk := adaXor (countField s.fLen)
        outbuf := s.outbuf.writeBytes 0
          (adaHeaderBytes 0x64#8 (countField s.fLen) (adaXor (countField s.fLen)) ++ p) }) := by
  rw [execEncAdalight, if_neg (not_not.2 h), hp, withAccess_ok]
  simp only
  rw [layFrame_eq (by show 6 + p.length + 0 ≤ s.outbufSize; omega)]
  simp

theorem execEncAwa_eq {s : State} (h : s.loop = .encode) {p : List Byte} (hp : s.payload = .ok p)
    (hs : 8 + p.length ≤ s.outbufSize) :
    execEncAwa s = .next (enterSend (8 + s.fLen.toNat)
      { s with
        adaCnt := countField s.fLen
        adaCk := adaXor (countField s.fLen)
        fl1 := (fletcher16 p).1
        fl2 := (fletcher16 p).2
        outbuf := s.outbuf.writeBytes 0
          (adaHeaderBytes 0x77#8 (countField s.fLen) (adaXor (countField s.fLen)) ++ p ++
            [(fletcher16 p).1, (fletcher16 p).2]) }) := by
  rw [execEncAwa, if_neg (not_not.2 h), hp, withAccess_ok]
  simp only
  rw [layFrame_eq (by show 6 + p.length + 2 ≤ s.outbufSize; omega)]

theorem execEncTpm2_eq {s : State} (h : s.loop = .encode) {p : List Byte} (hp : s.payload = .ok p)
    (hs : 5 + p.length ≤ s.outbufSize) :
    execEncTpm2 s = .next (enterSend (5 + s.fLen.toNat)
      { s with outbuf := s.outbuf.writeBytes 0 (tpm2HeaderBytes s.fLen ++ p ++ [0x36#8]) }) := by
  rw [execEncTpm2, if_neg (not_not.2 h), hp, withAccess_ok]
  rw [layFrame_eq (by show 4 + p.length + 1 ≤ s.outbufSize; omega)]

theorem execEncAdalight_encoded {s t : State} (h : s.loop = .encode) (he : execEncAdalight s = .next t) :
    Encoded s t := by
  have he' := he
  rw [execEncAdalight, if_neg (not_not.2 h)] at he'
  obtain ⟨p, hp, hk⟩ := withAccess_eq_next he'
  obtain ⟨hs, -⟩ := layFrame_eq_next hk
  have hs' : 6 + p.length + 0 ≤ s.outbufSize := hs
  rw [execEncAdalight_eq h hp (by omega)] at he
  cases he
  exact .adalight p hp (by omega)

theorem execEncAwa_encoded {s t : State} (h : s.loop = .encode) (he : execEncAwa s = .next t) : Encoded s t := by
  have he' := he
  rw [execEncAwa, if_neg (not_not.2 h)] at he'
  obtain ⟨p, hp, hk⟩ := withAccess_eq_next he'
  obtain ⟨hs, -⟩ := layFrame_eq_next hk
  have hs' : 6 + p.length + 2 ≤ s.outbufSize := hs
  rw [execEncAwa_eq h hp (by omega)] at he
  cases he
  exact .awa p hp (by omega)

theorem execEncTpm2_encoded {s t : State} (h : s.loop = .encode) (he : execEncTpm2 s = .next t) : Encoded s t := by
  have he' := he
  rw [execEncTpm2, if_neg (not_not.2 h)] at he'
  obtain ⟨p, hp, hk⟩ := withAccess_eq_next he'
  obtain ⟨hs, -⟩ := layFrame_eq_next hk
  have hs' : 4 + p.length + 1 ≤ s.outbufSize := hs
  rw [execEncTpm2_eq h hp (by omega)] at he
  cases he
  exact .tpm2 p hp (by omega)

/-! ### The block's own turn -/

theorem fetchHeader_eq_ok {s : State} {i : Instr} (h : fetchHeader s = .ok i) :
    ∃ b0 b1 b2 b3, loadBytes .rxbuf s.rxbufSize s.rxbuf 0 4 = .ok [b0, b1, b2, b3] ∧
      i = decodeOpc b0 b1 (be16 b2 b3) := by
  unfold fetchHeader at h
  split at h
  · rename_i bytes hb
    have hl := loadBytes_length hb
    match bytes, hl with
    | [b0, b1, b2, b3], _ =>
      simp only [decodeWord, decode, Except.ok.injEq] at h
      exact ⟨b0, b1, b2, b3, hb, h.symm⟩
  · cases h

theorem fetchPsel_eq (p : BitVec 2) :
    fetchPsel p = .ok
      (if p = 0#2 then .encAdalight else if p = 1#2 then .encAwa else if p = 2#2 then .encTpm2 else .pselReserved) := by
  revert p
  decide +kernel

/-- What the block's own turn can do. -/
theorem blockTurn_cases {s t : State} (h : blockTurn s = .next t) :
    (s.loop ≠ .decode ∧ s.loop ≠ .encode ∧ t = s) ∨
    (s.loop = .decode ∧ ∃ channel command n, t = decodeDatagram channel command n s) ∨
    (s.loop = .encode ∧ Encoded s t) := by
  unfold blockTurn at h
  split at h
  · rename_i hl
    refine .inr (.inl ⟨hl, ?_⟩)
    unfold decodeTurn at h
    split at h
    · rename_i h4
      cases h
      refine ⟨0, 0, 0, ?_⟩
      rw [decodeDatagram, if_neg (not_not.2 hl), if_pos h4]
    · obtain ⟨i, hi, he⟩ := withAccess_eq_next h
      obtain ⟨b0, b1, b2, b3, -, rfl⟩ := fetchHeader_eq_ok hi
      rw [exec_opc (opcFields_decodeOpc ..)] at he
      cases he
      exact ⟨_, _, _, rfl⟩
  · rename_i hl
    refine .inr (.inr ⟨hl, ?_⟩)
    unfold encodeTurn at h
    split at h
    · cases h
    · rename_i h3
      rw [fetchPsel_eq, withAccess_ok] at h
      have hp : s.cfgProtocol = 0#2 ∨ s.cfgProtocol = 1#2 ∨ s.cfgProtocol = 2#2 := by
        have : ∀ p : BitVec 2, p = 3#2 ∨ p = 0#2 ∨ p = 1#2 ∨ p = 2#2 := by decide
        rcases this s.cfgProtocol with h | h
        · exact absurd h h3
        · exact h
      rcases hp with hp | hp | hp <;> rw [hp] at h
      · exact execEncAdalight_encoded hl h
      · exact execEncAwa_encoded hl h
      · exact execEncTpm2_encoded hl h
  all_goals
    rename_i hl
    cases h
    exact .inl ⟨by simp [hl], by simp [hl], rfl⟩

/-! ### The transmitter -/

theorem txBeats_eq_next {k : Nat} {s t : State} (h : txBeats k s = .next t) : ∃ w, t = sendBytes w s := by
  induction k generalizing s with
  | zero =>
    cases h
    exact ⟨[], rfl⟩
  | succ k ih =>
    obtain ⟨u, hu, hk⟩ := andThen_eq_next h
    obtain ⟨w, rfl⟩ := ih hk
    rcases txBeat_eq_next hu with rfl | ⟨b, rfl⟩
    · exact ⟨w, rfl⟩
    · exact ⟨b :: w, rfl⟩

/-- Bytes sent write `TX`, `TX_PTR`, `LOOP` and the events only. -/
theorem sendBytes_frame (w : List Byte) (s : State) :
    let t := sendBytes w s
    t = { s with tx := t.tx, txPtr := t.txPtr, loop := t.loop, events := t.events, pulses := t.pulses } := by
  induction w generalizing s with
  | nil => rfl
  | cons b w ih =>
    simp only [sendBytes]
    have h1 := ih (sendByte b s)
    have h2 := sendByte_frame b s
    simp only at h1 h2
    rw [h1]
    rw [h2]

/-- The instruction fetched for the transmitter is an emitted row of the bytes at `TX_PTR`. -/
theorem fetchEmitted_eq_some {k : Nat} {s : State} {i : Instr} (h : fetchEmitted k s = some i) :
    ∃ w, loadBytes .outbuf s.outbufSize s.outbuf s.txPtr.toNat k = .ok w ∧
      ∃ a w', emittedWord s.fLen.toNat i = some (a, w') ∧ w' = w := by
  unfold fetchEmitted emittedFormat at h
  cases hp : protocolOf s.cfgProtocol with
  | none => simp [hp] at h
  | some p =>
    simp only [hp] at h
    by_cases h1 : s.txPtr = 0 ∧ k = (pspec p).headerLen
    · rw [if_pos h1] at h
      simp only at h
      cases hb : loadBytes .outbuf s.outbufSize s.outbuf s.txPtr.toNat k with
      | error f => simp [hb] at h
      | ok w =>
        refine ⟨w, rfl, ?_⟩
        have hl := loadBytes_length hb
        rw [h1.2] at hl
        simp only [hb] at h
        cases p
        · match w, hl with
          | [m0, m1, m2, c, d, k], _ =>
            simp only [decodeWord, pspec, decode] at h
            split_ifs at h with hm
            obtain ⟨rfl, rfl, rfl⟩ := hm
            simp only [Option.some.injEq] at h
            subst h
            exact ⟨0, _, rfl, by rw [hiByte_be16, loByte_be16]⟩
        · match w, hl with
          | [m0, m1, m2, c, d, k], _ =>
            simp only [decodeWord, pspec, decode] at h
            split_ifs at h with hm
            obtain ⟨rfl, rfl, rfl⟩ := hm
            simp only [Option.some.injEq] at h
            subst h
            exact ⟨0, _, rfl, by rw [hiByte_be16, loByte_be16]⟩
        · match w, hl with
          | [m0, m1, c, d], _ =>
            simp only [decodeWord, pspec, decode] at h
            split_ifs at h with hm
            obtain ⟨rfl, rfl⟩ := hm
            simp only [Option.some.injEq] at h
            subst h
            exact ⟨0, _, rfl, by rw [hiByte_be16, loByte_be16]⟩
    · rw [if_neg h1] at h
      by_cases h2 : s.txPtr.toNat = (pspec p).headerLen + s.fLen.toNat ∧ k = (pspec p).footerLen
      · rw [if_pos h2] at h
        cases p
        · simp [pspec] at h
        · simp only [pspec] at h
          cases hb : loadBytes .outbuf s.outbufSize s.outbuf s.txPtr.toNat k with
          | error f => simp [hb] at h
          | ok w =>
            refine ⟨w, rfl, ?_⟩
            have hl := loadBytes_length hb
            rw [h2.2] at hl
            simp only [hb] at h
            match w, hl with
            | [f, g], _ =>
              simp only [decodeWord, decode, Option.some.injEq] at h
              subst h
              exact ⟨_, _, rfl, rfl⟩
        · simp only [pspec] at h
          cases hb : loadBytes .outbuf s.outbufSize s.outbuf s.txPtr.toNat k with
          | error f => simp [hb] at h
          | ok w =>
            refine ⟨w, rfl, ?_⟩
            have hl := loadBytes_length hb
            rw [h2.2] at hl
            simp only [hb] at h
            match w, hl with
            | [m0], _ =>
              simp only [decodeWord, decode] at h
              split_ifs at h with hm
              subst hm
              simp only [Option.some.injEq] at h
              subst h
              exact ⟨_, _, rfl, rfl⟩
      · rw [if_neg h2] at h
        simp at h

/-- What a transmitter that takes `k` bytes can do. -/
theorem txStep_eq_next {k : Nat} {s t : State} (h : txStep k s = .next t) :
    (s.loop ≠ .send ∧ t = s) ∨ (s.loop = .send ∧ ∃ w, t = sendBytes w s) := by
  unfold txStep at h
  split at h
  · rename_i hl
    refine .inr ⟨hl, ?_⟩
    cases hf : fetchEmitted k s with
    | none =>
      rw [hf] at h
      exact txBeats_eq_next h
    | some i =>
      rw [hf] at h
      obtain ⟨w, -, a, w', he, -⟩ := fetchEmitted_eq_some hf
      simp only at h
      rw [exec_emitted he, emitWord_send hl] at h
      cases h
      exact ⟨w', rfl⟩
  · cases h
    exact .inl ⟨by assumption, rfl⟩

/-! ### The serial receive byte -/

/-- What `HS_RXBYTE` can do. -/
theorem hsRxByte_cases {b : Byte} {s t : State} (h : hsRxByte b s = .next t) :
    (s.hs ≠ .awaiting ∧ t = s) ∨
    (s.hs = .awaiting ∧ s.hsCnt.toNat < 4 ∧ s.hsCnt ≠ 3#3 ∧
      t = { s with hsBuf := s.hsBuf.write s.hsCnt.toNat b, hsCnt := s.hsCnt + 1 }) ∨
    (s.hs = .awaiting ∧ s.hsCnt = 3#3 ∧ ∃ b0 b1 b2,
      s.hsBuf.read 0 = some b0 ∧ s.hsBuf.read 1 = some b1 ∧ s.hsBuf.read 2 = some b2 ∧
      exec (decodeHs b0 b1 b2 b) { s with hsBuf := s.hsBuf.write 3 b, hsCnt := 4#3 } = .next t) := by
  unfold hsRxByte at h
  split at h
  · rename_i hw
    refine .inr ?_
    obtain ⟨s1, h1, h2⟩ := withAccess_eq_next h
    unfold pushHsByte at h1
    split at h1
    · rename_i m hm
      obtain ⟨hsz, rfl⟩ := (storeBytes_ok_iff ..).1 hm
      simp only [List.length_cons, List.length_nil, hsBufSize] at hsz
      cases h1
      by_cases h3 : s.hsCnt = 3#3
      · refine .inr ⟨hw, h3, ?_⟩
        rw [h3] at h2
        rw [if_pos (by rfl)] at h2
        obtain ⟨i, hi, he⟩ := withAccess_eq_next h2
        unfold fetchHsWord at hi
        split at hi
        · rename_i bytes hb
          obtain ⟨hl, hr⟩ := (loadBytes_ok_iff ..).1 hb
          match bytes, hl with
          | [b0, b1, b2, b3], _ =>
            have r (j : Nat) (hj : j < 4) := (hr j hj).2
            simp only [Mem.writeBytes, Mem.read_write, Nat.zero_add] at r
            have r0 := r 0 (by omega)
            have r1 := r 1 (by omega)
            have r2 := r 2 (by omega)
            have r3 := r 3 (by omega)
            simp at r0 r1 r2 r3
            subst r3
            simp only [decodeWord, decode, Except.ok.injEq] at hi
            subst hi
            exact ⟨b0, b1, b2, r0, r1, r2, he⟩
        · cases hi
      · refine .inl ⟨hw, by omega, h3, ?_⟩
        have : ¬ s.hsCnt + 1 = 4 := by
          intro e
          have hc : ∀ c : BitVec 3, c + 1 = 4 → c = 3#3 := by decide
          exact h3 (hc _ e)
        rw [if_neg this] at h2
        cases h2
        rfl
    · cases h1
  · cases h
    exact .inl ⟨by assumption, rfl⟩

end Sys2Proof.Machine
end

