-- ==== Sys2Proof/Laws/Invariant.lean ====
section
/-! SUPPORT. The pieces of the invariant: buffers under writes, the machine right after reset, and what the handshake state says
while the control loop runs. -/

namespace Sys2Proof.Safety

open Sys2Proof Sys2Proof.Machine

/-- The three buffers of `State.reset` are in canonical form. -/
theorem reset_wf : State.reset.rxbuf.wf ∧ State.reset.outbuf.wf ∧ State.reset.hsBuf.wf :=
  ⟨Mem.wf_empty, Mem.wf_empty, Mem.wf_empty⟩

theorem bufferOk_empty (size : Nat) : bufferOk size Mem.empty :=
  ⟨Mem.wf_empty, by intro c hc; cases hc⟩

/-- A write inside the buffer keeps it. -/
theorem bufferOk_writeBytes {size : Nat} {m : Mem} (h : bufferOk size m) {a : Nat} {bs : List Byte}
    (hs : a + bs.length ≤ size) : bufferOk size (m.writeBytes a bs) :=
  ⟨Mem.wf_writeBytes h.1 _ _, fun c hc => by
    rcases Mem.mem_writeBytes hc with h' | h'
    · exact h.2 c h'
    · omega⟩

/-- `State.reset` is the state after `RESET` with the straps of `Config` (R41). -/
theorem reset_eq_freshState :
    State.reset =
      freshState Config.resetRxbufSize
        { cfgProtocol := Config.resetProtocol
          cfgChannel := Config.resetChannel
          cfgHsTimeoutMs := Config.defaultHsTimeoutMs } [] := rfl

/-- The control loop runs in `READY` only (R192). -/
theorem ready_of_busy {s : State} (h : Inv s) (hl : s.loop ≠ .idle) : s.hs = .ready := by
  have := h.handshake
  unfold handshakeOk at this
  split at this
  · exact absurd this.2.2.1 hl
  · assumption
  · exact absurd this.2.2.2.1 hl

/-- In `READY` the invariant's handshake part reads five registers only. -/
theorem handshakeOk_of_ready {s t : State} (h : handshakeOk s) (hr : s.hs = .ready) (h1 : t.hs = s.hs)
    (h2 : t.hsCause = s.hsCause) (h3 : t.cfgProtocol = s.cfgProtocol) (h4 : t.hsCnt = s.hsCnt)
    (h5 : t.hsBuf = s.hsBuf) : handshakeOk t := by
  unfold handshakeOk at *
  rw [h1, hr]
  rw [hr] at h
  simpa [h2, h3, h4, h5] using h

end Sys2Proof.Safety
end

