-- ==== Sys2Proof/Laws/PerInstr.lean ====
section
/-! SUPPORT. Statements about every instruction, one lemma per constructor: an instruction's word has exactly the bytes its format
gives it (R80, R81, R85 to R88, R92). -/

namespace Sys2Proof.Laws.WordLength

open Sys2Proof

/-- The bytes of a format's word (a 2-bit word takes a byte). -/
def formatBytes : Format → Nat
  | .opcHdr => 4
  | .psel => 1
  | .hsMagic => 4
  | .adaHdr => 6
  | .awaHdr => 6
  | .awaFtr => 2
  | .tpm2Hdr => 4
  | .tpm2Ftr => 1

/-- The encoded word of a well-formed instruction is as long as its format says. -/
def Statement (i : Instr) : Prop := i.wellFormed = true → (encode i).length = formatBytes i.format

theorem opcSetPixelColors (channel : Byte) (n : Half) : Statement (.opcSetPixelColors channel n) := fun _ => rfl

theorem opcUnsupported0 (channel : Byte) (n : Half) : Statement (.opcUnsupported0 channel n) := fun _ => rfl

theorem opcUnsupported1 (channel : Byte) (low : BitVec 1) (n : Half) : Statement (.opcUnsupported1 channel low n) := fun _ => rfl

theorem opcUnsupported2 (channel : Byte) (low : BitVec 2) (n : Half) : Statement (.opcUnsupported2 channel low n) := fun _ => rfl

theorem opcUnsupported3 (channel : Byte) (low : BitVec 3) (n : Half) : Statement (.opcUnsupported3 channel low n) := fun _ => rfl

theorem opcUnsupported4 (channel : Byte) (low : BitVec 4) (n : Half) : Statement (.opcUnsupported4 channel low n) := fun _ => rfl

theorem opcUnsupported5 (channel : Byte) (low : BitVec 5) (n : Half) : Statement (.opcUnsupported5 channel low n) := fun _ => rfl

theorem opcUnsupported6 (channel : Byte) (low : BitVec 6) (n : Half) : Statement (.opcUnsupported6 channel low n) := fun _ => rfl

theorem opcUnsupported7 (channel : Byte) (low : BitVec 7) (n : Half) : Statement (.opcUnsupported7 channel low n) := fun _ => rfl

theorem encAdalight : Statement .encAdalight := fun _ => rfl

theorem encAwa : Statement .encAwa := fun _ => rfl

theorem encTpm2 : Statement .encTpm2 := fun _ => rfl

theorem pselReserved : Statement .pselReserved := fun _ => rfl

theorem hsMagic : Statement .hsMagic := fun _ => rfl

theorem hsMismatch (b0 : Byte) (b1 : Byte) (b2 : Byte) (b3 : Byte) : Statement (.hsMismatch b0 b1 b2 b3) := fun _ => rfl

theorem txAdalightHdr (c : Half) (k : Byte) : Statement (.txAdalightHdr c k) := fun _ => rfl

theorem txAwaHdr (c : Half) (k : Byte) : Statement (.txAwaHdr c k) := fun _ => rfl

theorem txAwaFtr (f : Byte) (g : Byte) : Statement (.txAwaFtr f g) := fun _ => rfl

theorem txTpm2Hdr (n : Half) : Statement (.txTpm2Hdr n) := fun _ => rfl

theorem txTpm2Ftr : Statement .txTpm2Ftr := fun _ => rfl

end Sys2Proof.Laws.WordLength
end

