-- ==== Sys2Proof/Laws/Step.lean ====
section
/-! SUPPORT. What one step can do, said once: a step that does not reset is its handshake part, then at most one operation of
the control loop. -/

namespace Sys2Proof.Machine

open Sys2Proof Sys2Proof.Safety

/-- A run whose first step answers a next state goes on from it. -/
theorem run_of_next (M : Host.Core) (k : Nat) (s t : M.State) (h : M.step s = .next t) :
    M.run (k + 1) s = M.run k t := by
  rw [Host.Core.run, h]

/-- The handshake part of a step: the strap levels, the script, the pulses and the handshake registers, of which the latter
change only while `AWAITING` (R170). -/
structure HandshakePart (s u : State) : Prop where
  frame : u =
    { s with
      straps := u.straps, script := u.script, pulses := u.pulses
      hs := u.hs, hsBuf := u.hsBuf, hsCnt := u.hsCnt, hsTimer := u.hsTimer, hsCause := u.hsCause }
  final : s.hs ≠ .awaiting → u.hs = s.hs ∧ u.hsCause = s.hsCause ∧ u.hsBuf = s.hsBuf ∧ u.hsCnt = s.hsCnt
  awaiting : u.hs = .awaiting → s.hs = .awaiting
  quiet : u.pulses = s.pulses ∨ u.pulses = Pulses.none

theorem HandshakePart.refl (s : State) : HandshakePart s s := ⟨rfl, fun _ => ⟨rfl, rfl, rfl, rfl⟩, fun h => h, .inl rfl⟩

theorem HandshakePart.trans {s u v : State} (h : HandshakePart s u) (k : HandshakePart u v) : HandshakePart s v := by
  refine ⟨?_, ?_, fun x => h.awaiting (k.awaiting x), k.quiet.elim (fun e => e ▸ h.quiet) .inr⟩
  · rw [k.frame, h.frame]
  · intro ha
    obtain ⟨a, b, c, d⟩ := h.final ha
    obtain ⟨a', b', c', d'⟩ := k.final (by rw [a]; exact ha)
    exact ⟨a'.trans a, b'.trans b, c'.trans c, d'.trans d⟩

theorem handshakePart_hsRxByte {b : Byte} {s t : State} (h : hsRxByte b s = .next t) : HandshakePart s t := by
  rcases hsRxByte_cases h with ⟨-, rfl⟩ | ⟨ha, h4, h3, rfl⟩ | ⟨ha, h3, b0, b1, b2, r0, r1, r2, he⟩
  · exact .refl _
  · exact ⟨rfl, fun h => absurd ha h, fun _ => ha, .inl rfl⟩
  · unfold decodeHs at he
    split at he
    · simp only [exec, execHsMagic, ha, if_true] at he
      cases he
      exact ⟨rfl, fun h => absurd ha h, fun _ => ha, .inl rfl⟩
    · simp only [exec, execHsMismatch, ha, if_true] at he
      cases he
      exact ⟨rfl, fun h => absurd ha h, fun _ => ha, .inl rfl⟩

theorem handshakePart_hsTimeout (s : State) : HandshakePart s (hsTimeout s) := by
  by_cases ha : s.hs = .awaiting
  · have := hsTimeout_frame s
    simp only at this
    exact ⟨by rw [this], fun h => absurd ha h, fun _ => ha, .inl (by rw [this])⟩
  · rw [hsTimeout_disabled ha]; exact .refl _

theorem handshakePart_hsTick (s : State) : HandshakePart s (hsTick s) := by
  by_cases ha : s.hs = .awaiting
  · have := hsTick_frame s
    simp only at this
    exact ⟨by rw [this], fun h => absurd ha h, fun _ => ha, .inl (by rw [this])⟩
  · rw [hsTick_disabled ha]; exact .refl _

/-- The one operation of the control loop a step performs, if any (R190). -/
inductive LoopPart (s : State) : State → Prop where
  | none : LoopPart s s
  | dec (channel command : Byte) (n : Half) (h : s.loop = .decode) : LoopPart s (decodeDatagram channel command n s)
  | enc (t : State) (h : s.loop = .encode) (ht : Encoded s t) : LoopPart s t
  | dg (d : List Byte) : LoopPart s (rxDatagram d s)
  | beat (b : Byte) (k l : Bool) : LoopPart s (rxBeat b k l s)
  | send (w : List Byte) (h : s.loop = .send) : LoopPart s (sendBytes w s)

theorem loopPart_blockTurn {s t : State} (h : blockTurn s = .next t) : LoopPart s t := by
  rcases blockTurn_cases h with ⟨-, -, rfl⟩ | ⟨hl, c, d, n, rfl⟩ | ⟨hl, he⟩
  · exact .none
  · exact .dec c d n hl
  · exact .enc t hl he

theorem loopPart_txBeats {k : Nat} {s t : State} (h : txBeats k s = .next t) : LoopPart s t := by
  by_cases hl : s.loop = .send
  · obtain ⟨w, rfl⟩ := txBeats_eq_next h; exact .send w hl
  · rw [txBeats_disabled hl] at h; cases h; exact .none

theorem loopPart_txBeat {s t : State} (h : txBeat s = .next t) : LoopPart s t := by
  by_cases hl : s.loop = .send
  · rcases txBeat_eq_next h with rfl | ⟨b, rfl⟩
    · exact .none
    · exact .send [b] hl
  · rw [txBeat_disabled hl] at h; cases h; exact .none

theorem loopPart_txStep {k : Nat} {s t : State} (h : txStep k s = .next t) : LoopPart s t := by
  rcases txStep_eq_next h with ⟨-, rfl⟩ | ⟨hl, w, rfl⟩
  · exact .none
  · exact .send w hl

/-- A step that does not reset: its handshake part, then its control loop part; in `IDLE` the latter sees the handshake
state of before the step. -/
theorem step_parts {s t : State} (hr : isReset (nextStimulus s) = false) (h : step s = .next t) : ∃ u, HandshakePart s u ∧ LoopPart u t ∧ (s.loop = .idle → t ≠ u → u.hs = s.hs) := by
  have h : stepBlock s = .next t := h
  unfold stepBlock at h
  have hb : HandshakePart s s.beginStep := ⟨rfl, fun _ => ⟨rfl, rfl, rfl, rfl⟩, fun h => h, .inr rfl⟩
  have hu0 : s.beginStep.hs = s.hs := rfl
  have hul : s.beginStep.loop = s.loop := rfl
  have huh : dgReady s.beginStep = dgReady s := rfl
  have hst (v : State) (st : Straps) : HandshakePart v { v with straps := st } :=
    ⟨rfl, fun _ => ⟨rfl, rfl, rfl, rfl⟩, fun h => h, .inl rfl⟩
  generalize s.beginStep = u at *
  generalize nextStimulus s = e at *
  cases e <;> simp only [applyStimulus] at h
  · exact ⟨u, hb, loopPart_blockTurn h, fun _ _ => hu0⟩
  · cases hr
  · cases h; exact ⟨_, hb.trans (hst u _), .none, fun _ h => absurd rfl h⟩
  · cases h; exact ⟨u, hb, .dg _, fun _ _ => hu0⟩
  · cases h; exact ⟨u, hb, .beat _ _ _, fun _ _ => hu0⟩
  · exact ⟨t, hb.trans (handshakePart_hsRxByte h), .none, fun _ h => absurd rfl h⟩
  · cases h; exact ⟨_, hb.trans (handshakePart_hsTimeout u), .none, fun _ h => absurd rfl h⟩
  · cases h; exact ⟨_, hb.trans (handshakePart_hsTick u), .none, fun _ h => absurd rfl h⟩
  · exact ⟨u, hb, loopPart_txBeat h, fun _ _ => hu0⟩
  · exact ⟨u, hb, loopPart_txStep h, fun _ _ => hu0⟩
  · exact ⟨u, hb, loopPart_txBeats h, fun _ _ => hu0⟩
  · rename_i p d
    unfold clockCycle at h
    have hr : p.rst = false := hr
    rw [hr] at h
    simp only [Bool.false_eq_true, if_false] at h
    have hb := hb.trans (hst u p.straps)
    have hvl : ({ u with straps := p.straps } : State).loop = s.loop := hul
    have hvr : dgReady ({ u with straps := p.straps } : State) = dgReady s := huh
    generalize ({ u with straps := p.straps } : State) = v at *
    unfold clockEdge at h
    obtain ⟨s1, h1, h2⟩ := andThen_eq_next h
    have i1 : HandshakePart s s1 := by
      split at h1
      · exact hb.trans (handshakePart_hsRxByte h1)
      · cases h1; exact hb
    have i2 : HandshakePart s (if p.tickMs then hsTick s1 else s1) := by
      split
      · exact i1.trans (handshakePart_hsTick _)
      · exact i1
    simp only at h2
    generalize (if p.tickMs then hsTick s1 else s1) = s2 at *
    refine ⟨s2, i2, ?_, ?_⟩
    · split at h2
      · cases h2; split; exact .beat _ _ _; exact .none
      · cases h2; split; exact .beat _ _ _; exact .none
      · split at h2; exact loopPart_blockTurn h2; cases h2; exact .none
      · split at h2; exact loopPart_blockTurn h2; cases h2; exact .none
      · split at h2; exact loopPart_txBeat h2; cases h2; exact .none
    · intro hi hne
      rw [hvl, hi] at h2
      simp only at h2
      split at h2
      · rename_i hx
        simp only [Bool.and_eq_true] at hx
        rw [hvr, dgReady_iff] at hx
        exact (i2.final (by rw [hx.2.1]; decide)).1
      · cases h2; exact absurd rfl hne

theorem loopPart_handshake {s t : State} (h : LoopPart s t) : t.hs = s.hs ∧ t.hsCause = s.hsCause ∧ t.hsBuf = s.hsBuf ∧ t.hsCnt = s.hsCnt ∧ t.cfgProtocol = s.cfgProtocol ∧ t.cfgChannel = s.cfgChannel ∧ t.cfgHsTimeoutMs = s.cfgHsTimeoutMs ∧ t.rxbufSize = s.rxbufSize := by
  cases h with
  | none => simp
  | dec c d n h => have := decodeDatagram_frame c d n s; simp only at this; rw [this]; simp
  | enc t h ht => cases ht <;> simp [enterSend]
  | dg d => unfold rxDatagram; split <;> simp
  | beat b k l => have := rxBeat_frame b k l s; simp only at this; rw [this]; simp
  | send w h => have := sendBytes_frame w s; simp only at this; rw [this]; simp

/-! ### What an operation records -/

/-- From `s` to `t` the events `recorded` were added, and exactly their pulses went up (R38). -/
structure Records (s t : State) (recorded : List Event) : Prop where
  events : t.events = s.events ++ recorded
  accept : t.pulses.accept = true ↔ s.pulses.accept = true ∨ Event.accept ∈ recorded
  warn : t.pulses.warn = true ↔ s.pulses.warn = true ∨ Event.warn ∈ recorded
  drop : t.pulses.drop = true ↔ s.pulses.drop = true ∨ ∃ e, Event.drop e ∈ recorded
  sent : t.pulses.sent = true ↔ s.pulses.sent = true ∨ ∃ n, Event.sent n ∈ recorded

theorem Records.silent {s t : State} (he : t.events = s.events) (hp : t.pulses = s.pulses) : Records s t [] := by
  constructor <;> simp [he, hp]

theorem Records.trans {s u t : State} {a b : List Event} (h : Records s u a) (k : Records u t b) :
    Records s t (a ++ b) := by
  constructor
  · rw [k.events, h.events, List.append_assoc]
  · rw [k.accept, h.accept, List.mem_append, or_assoc]
  · rw [k.warn, h.warn, List.mem_append, or_assoc]
  · simp only [k.drop, h.drop, List.mem_append, exists_or, or_assoc]
  · simp only [k.sent, h.sent, List.mem_append, exists_or, or_assoc]

theorem records_signal (s : State) (e : Event) : Records s (s.signal e) [e] := by
  cases e <;> constructor <;> simp [State.signal]

theorem records_raiseError (e : ErrCode) (s : State) : Records s (raiseError e s) [.drop e] :=
  (records_signal s (.drop e)).trans (.silent rfl rfl)

theorem records_acceptFrame (s : State) :
    Records s (acceptFrame s) (if warn3 s.fLen then [.accept, .warn] else [.accept]) := by
  by_cases h : warn3 s.fLen <;> constructor <;> simp [h]

theorem records_decodeDatagram (channel command : Byte) (n : Half) {s : State} (h : s.loop = .decode) :
    ∃ r, Records s (decodeDatagram channel command n s) r := by
  rcases decodeDatagram_cases channel command n s h with
    ⟨-, e⟩ | ⟨-, -, e⟩ | ⟨-, -, -, e⟩ | ⟨-, -, -, -, e⟩ | ⟨-, -, -, -, -, e⟩ | ⟨-, -, -, -, -, e⟩ <;> rw [e]
  on_goal 6 => refine ⟨_, Records.trans (a := []) ?_ (records_acceptFrame _)⟩
  on_goal 6 => exact .silent rfl rfl
  all_goals
    refine ⟨_, Records.trans (a := []) ?_ (records_raiseError _ _)⟩
    exact .silent rfl rfl

theorem records_sendByte (b : Byte) (s : State) : ∃ r, Records s (sendByte b s) r := by
  by_cases h : s.loop = .send
  · rw [sendByte_send h]
    split
    · exact ⟨[.sent (s.tx ++ [b]).length], by constructor <;> simp⟩
    · exact ⟨[], .silent rfl rfl⟩
  · rw [sendByte_disabled h]; exact ⟨[], .silent rfl rfl⟩

theorem records_sendBytes (w : List Byte) (s : State) : ∃ r, Records s (sendBytes w s) r := by
  induction w generalizing s with
  | nil => exact ⟨[], .silent rfl rfl⟩
  | cons b w ih =>
    obtain ⟨a, ha⟩ := records_sendByte b s
    obtain ⟨c, hc⟩ := ih (sendByte b s)
    exact ⟨_, ha.trans hc⟩

theorem loopPart_records {s t : State} (h : LoopPart s t) : ∃ r, Records s t r := by
  cases h with
  | none => exact ⟨[], .silent rfl rfl⟩
  | dec c d n h => exact records_decodeDatagram c d n h
  | enc t h ht => cases ht <;> exact ⟨[], .silent rfl rfl⟩
  | dg d => unfold rxDatagram; split <;> exact ⟨[], .silent rfl rfl⟩
  | beat b k l =>
    have := rxBeat_frame b k l s
    simp only at this
    exact ⟨[], .silent (by rw [this]) (by rw [this])⟩
  | send w h => exact records_sendBytes w s

end Sys2Proof.Machine
end

