-- ==== Sys2Proof/Machine/Script.lean ====
section
/-! DEFINITION. The event-script notation (R95, R96): the stimulus lines with their pseudo-events, expanded to the machine's
stimuli, and the result lines that a stretch of a run shows. The notation "defines no behaviour" (D19). -/

namespace Sys2Proof.Machine

open Sys2Proof

/-- The `proto=` of a `RESET` line (R95). -/
inductive ProtoName where
  | adalight
  | awa
  | tpm2
  | rsvd
  deriving DecidableEq, Repr

/-- The strap value of a protocol name (R85). -/
def ProtoName.psel : ProtoName → BitVec 2
  | .adalight => 0
  | .awa => 1
  | .tpm2 => 2
  | .rsvd => 3

/-- What the transmitter does behind a `DG` line (R95): `TXRUN` is implied unless the script says otherwise. -/
inductive TxMode where
  | run
  | stall
  | step (k : Nat)
  deriving DecidableEq, Repr

/-- The stimulus lines of R95 and the pseudo-events of R96. (`rxbuf=` of a `RESET` line is `State.rxbufSize`.) -/
inductive ScriptLine where
  | reset (proto : ProtoName) (chan : Byte) (hsTimeoutMs : Half)
  | srx (bytes : List Byte)
  | timeout
  | dg (d : List Byte) (tx : TxMode)
  | txRun
  | txStep (k : Nat)
  /-- `HANDSHAKE`. -/
  | handshake
  /-- `OPC ch=<c> <payload>`. -/
  | opc (channel : Byte) (payload : List Byte) (tx : TxMode)
  /-- `OPCN ch=<c> n=<n> fill=<b>`. -/
  | opcn (channel : Byte) (n : Nat) (fill : Byte) (tx : TxMode)
  deriving DecidableEq, Repr

/-- The transmitter's stimuli behind a datagram. -/
def TxMode.stimuli : TxMode → List Stimulus
  | .run => [.txRun]
  | .stall => []
  | .step k => [.txStep k]

/-- A datagram offered, the block's two turns, and the transmitter. -/
def dgStimuli (d : List Byte) (tx : TxMode) : List Stimulus :=
  [.datagram d, .turn, .turn] ++ tx.stimuli

/-- The well-formed `SET_PIXEL_COLORS` datagram of `OPC` (R96). -/
def opcDatagram (channel : Byte) (payload : List Byte) : List Byte :=
  opcHeaderBytes channel 0x00#8 (BitVec.ofNat 16 payload.length) ++ payload

/-- The stimuli of a line (R95, R96). -/
def ScriptLine.stimuli : ScriptLine → List Stimulus
  | .reset proto chan hsTimeoutMs =>
    [.reset { cfgProtocol := proto.psel, cfgChannel := chan, cfgHsTimeoutMs := hsTimeoutMs }]
  | .srx bytes => bytes.map .srx
  | .timeout => [.timeout]
  | .dg d tx => dgStimuli d tx
  | .txRun => [.txRun]
  | .txStep k => [.txStep k]
  | .handshake => [.srx 0x41#8, .srx 0x64#8, .srx 0x61#8, .srx 0x0A#8]
  | .opc channel payload tx => dgStimuli (opcDatagram channel payload) tx
  | .opcn channel n fill tx => dgStimuli (opcDatagram channel (List.replicate n fill)) tx

/-- The stimuli of a script. -/
def scriptStimuli (lines : List ScriptLine) : List Stimulus := lines.flatMap ScriptLine.stimuli

/-- The result lines of R95. -/
inductive ResultLine where
  | tx (bytes : List Byte)
  | drop (err : ErrCode)
  | accept (warn3 : Bool)
  | hs (state : HandshakeState) (cause : HsCause)
  | lost
  | nothing
  deriving DecidableEq, Repr

/-- The line an event of the observer's record shows; the warning is part of `ACCEPT WARN3`. -/
def eventLine (warned : Bool) : Event → List ResultLine
  | .accept => [.accept warned]
  | .warn => []
  | .drop e => [.drop e]
  | .sent _ => []

/-- The result lines of a stretch of a run within one session, from the state before it to the state after it; `offered`
says whether its stimulus was a datagram. -/
def resultLines (offered : Bool) (s t : State) : List ResultLine :=
  let fresh := t.events.drop s.events.length
  let lost := if offered && !dgReady s then [ResultLine.lost] else []
  let verdicts := fresh.flatMap (eventLine (fresh.contains .warn))
  let sent := t.tx.drop s.tx.length
  let bytes := if sent.isEmpty then [] else [ResultLine.tx sent]
  let hs := if t.hs = s.hs then [] else [ResultLine.hs t.hs t.hsCause]
  let all := lost ++ verdicts ++ bytes ++ hs
  if all.isEmpty then [.nothing] else all

end Sys2Proof.Machine
end

