-- ==== Sys2Proof/Tests/Slice0.lean ====
section
/-! SUPPORT. Tests: each ill-formed term refused, each constructor's word written out from `30_encoding.md`, one step on a small state with the
value `95_test_vectors.md` gives, and a state that meets the hypotheses of every statement that has any. -/

namespace Sys2Proof.Tests

open Sys2Proof Sys2Proof.Machine Sys2Proof.Safety

/-! ### Well-formedness: one ill-formed term for each check -/

/-- R174: a mismatch word that is the magic. -/
theorem test_illformed_mismatch : (Instr.hsMismatch 0x41 0x64 0x61 0x0A).wellFormed = false := by decide
/-- R86, R130: the checksum of the count field 0001 is 54. -/
theorem test_illformed_adalight_checksum : (Instr.txAdalightHdr 0x0001 0x55).wellFormed = false := by decide
/-- R90: no payload has the count field 6000; its checksum 35 is right. -/
theorem test_illformed_adalight_count : (Instr.txAdalightHdr 0x6000 0x35).wellFormed = false := by decide
theorem test_illformed_awa_checksum : (Instr.txAwaHdr 0x0001 0x55).wellFormed = false := by decide
theorem test_illformed_awa_count : (Instr.txAwaHdr 0x6000 0x35).wellFormed = false := by decide
/-- R133: no Fletcher sum is 255. -/
theorem test_illformed_footer_first : (Instr.txAwaFtr 0xFF 0x00).wellFormed = false := by decide
theorem test_illformed_footer_second : (Instr.txAwaFtr 0x00 0xFF).wellFormed = false := by decide
/-- The counts of no LED and of 21845 LEDs, at the ends of the range (R90, R131). -/
theorem test_wellformed_counts :
    (Instr.txAdalightHdr 0xFFFF 0x55).wellFormed = true ∧ (Instr.txAdalightHdr 0x5554 0x54).wellFormed = true := by decide

/-! ### Decoding: a word of every row, written out bit by bit from its format (R81, R82, R85 to R88, R92) -/

/-- What the decoder answers: an instruction and the bytes left, or none. -/
def decoded (f : Format) (bytes : List Byte) : Option (Instr × List Byte) :=
  match decode f bytes with
  | .ok r => some r
  | .error _ => none

/-- Channel 02, command 00, length 0x0304, one byte behind the header. -/
theorem test_decode_set_pixel_colors :
    decoded .opcHdr [0b00000010, 0b00000000, 0b00000011, 0b00000100, 0xAA] =
      some (.opcSetPixelColors 0x02 0x0304, [0xAA]) := by decide
theorem test_decode_unsupported0 :
    decoded .opcHdr [0b11111111, 0b00000001, 0b00000000, 0b00000001] = some (.opcUnsupported0 0xFF 1, []) := by decide
theorem test_decode_unsupported1 :
    decoded .opcHdr [0, 0b00000011, 0b10000000, 0] = some (.opcUnsupported1 0 0b1 0x8000, []) := by decide
theorem test_decode_unsupported2 :
    decoded .opcHdr [0, 0b00000110, 0, 0] = some (.opcUnsupported2 0 0b10 0, []) := by decide
theorem test_decode_unsupported3 :
    decoded .opcHdr [0, 0b00001001, 0, 0] = some (.opcUnsupported3 0 0b001 0, []) := by decide
theorem test_decode_unsupported4 :
    decoded .opcHdr [0, 0b00011010, 0, 0] = some (.opcUnsupported4 0 0b1010 0, []) := by decide
theorem test_decode_unsupported5 :
    decoded .opcHdr [0, 0b00100000, 0, 0] = some (.opcUnsupported5 0 0b00000 0, []) := by decide
theorem test_decode_unsupported6 :
    decoded .opcHdr [0, 0b01110001, 0, 0] = some (.opcUnsupported6 0 0b110001 0, []) := by decide
/-- OPC's system exclusive command FF is one of the unsupported ones (R82). -/
theorem test_decode_unsupported7 :
    decoded .opcHdr [0, 0b11111111, 0, 0] = some (.opcUnsupported7 0 0b1111111 0, []) := by decide
theorem test_decode_psel :
    decoded .psel [0b00] = some (.encAdalight, []) ∧ decoded .psel [0b01] = some (.encAwa, []) ∧
    decoded .psel [0b10] = some (.encTpm2, []) ∧ decoded .psel [0b11] = some (.pselReserved, []) := by decide
/-- `A d a \n`, and `A d a X` of the source's scenario S7. -/
theorem test_decode_handshake :
    decoded .hsMagic [0b01000001, 0b01100100, 0b01100001, 0b00001010] = some (.hsMagic, []) ∧
    decoded .hsMagic [0x41, 0x64, 0x61, 0x58] = some (.hsMismatch 0x41 0x64 0x61 0x58, []) := by decide
/-- The header of S6. -/
theorem test_decode_adalight_header :
    decoded .adaHdr [0b01000001, 0b01100100, 0b01100001, 0, 0b00000001, 0b01010100] =
      some (.txAdalightHdr 0x0001 0x54, []) := by decide
/-- The header and the footer of V43. -/
theorem test_decode_awa :
    decoded .awaHdr [0b01000001, 0b01110111, 0b01100001, 0, 1, 0x54] = some (.txAwaHdr 0x0001 0x54, []) ∧
    decoded .awaFtr [0b01010001, 0b10000011] = some (.txAwaFtr 0x51 0x83, []) := by decide
/-- The header of V53 and the end marker. -/
theorem test_decode_tpm2 :
    decoded .tpm2Hdr [0b11001001, 0b11011010, 0b00000001, 0b00000000] = some (.txTpm2Hdr 0x0100, []) ∧
    decoded .tpm2Ftr [0b00110110] = some (.txTpm2Ftr, []) := by decide
/-- What is no word of a format is refused by name. -/
theorem test_decode_rejects :
    decode .opcHdr [0, 0, 0] = .error .tooFewBytes ∧ decode .psel [0x04] = .error .pselTooWide ∧
    decode .adaHdr [0x41, 0x77, 0x61, 0, 0, 0x55] = .error .wrongConstant := by decide
/-- The same rows as the table numbers their bits. -/
theorem test_table_words :
    decodeTableWord 32 0x020103FC = some (.opcUnsupported0 0x02 0x03FC) ∧
    decodeTableWord 32 0x4164610A = some .hsMagic ∧ decodeTableWord 8 0x36 = some .txTpm2Ftr ∧
    decodeTableWord 48 0x417761000154 = some (.txAwaHdr 0x0001 0x54) ∧ decodeTableWord 2 3 = some .pselReserved := by decide

/-! ### Small states -/

/-- The next state of an answer (`State.reset` for a stop; no test below ends there). -/
def after (o : Out) : State :=
  match o with
  | .next s => s
  | .fault _ => State.reset
  | .refused _ => State.reset

/-- The answer is a next state. -/
def goesOn (o : Out) : Bool :=
  match o with
  | .next _ => true
  | .fault _ => false
  | .refused _ => false

/-- Right after `RESET` with this protocol, `RXBUF_SIZE` and filter, time-out 3 ms. -/
def fresh (p : BitVec 2) (size : Nat) (filter : Byte) : State :=
  freshState size { cfgProtocol := p, cfgChannel := filter, cfgHsTimeoutMs := 3 } []

/-- The same in `READY` whatever the protocol. -/
def ready (p : BitVec 2) (size : Nat) (filter : Byte) : State := { fresh p size filter with hs := .ready, hsCnt := 4 }

/-- At `LOOP` = `DECODE` with the datagram. -/
def offered (p : BitVec 2) (size : Nat) (filter : Byte) (d : List Byte) : State := rxDatagram d (ready p size filter)

/-- At `LOOP` = `ENCODE` with the payload. -/
def toEncode (p : BitVec 2) (size : Nat) (payload : List Byte) : State :=
  { offered p size 0 ([0, 0, 0, BitVec.ofNat 8 payload.length] ++ payload) with
    loop := .encode, fLen := BitVec.ofNat 16 payload.length }

/-- At `LOOP` = `SEND` with this frame. -/
def toSend (p : BitVec 2) (size : Nat) (frame : List Byte) (n : Half) (sent : FrameIndex) : State :=
  { ready p size 0 with
    loop := .send, fLen := n, outbuf := Mem.empty.writeBytes 0 frame, outLen := BitVec.ofNat 17 frame.length, txPtr := sent }

/-- The first bytes of a buffer. -/
def front (n : Nat) (m : Mem) : List (Option Byte) := (List.range n).map m.read

/-- `OUTBUF_SIZE` of R6 at the least `RXBUF_SIZE`, at the last one below the cap, at 65539 and above it. -/
theorem test_outbufSize_is_capped :
    [4, 65538, 65539, 65540, 1000000].map (fun n => (fresh 2 n 0).outbufSize) = [8, 65542, 65543, 65543, 65543] := by decide

/-! ### One step per instruction -/

/-- V3 and V13: `STATUS`, `F_LEN`, `LOOP`. -/
theorem test_set_pixel_colors_accepts :
    (let t := after (exec (.opcSetPixelColors 0x02 0x0000) (offered 2 16 2 [2, 0, 0, 0]))
     (t.loop, t.statusErr, t.fChannel, t.statusWarn3)) = (.encode, .ok, 2, false) ∧
    (let t := after (exec (.opcSetPixelColors 0x00 0x0001) (offered 2 16 2 [0, 0, 0, 1, 0x7F]))
     (t.loop, t.statusErr, t.fLen, t.statusWarn3, t.events)) = (.encode, .ok, 1, true, [.accept, .warn]) := by decide
/-- V5, V18 and V12: the three errors a command 00 can meet behind the length check. -/
theorem test_set_pixel_colors_drops :
    (let t := after (exec (.opcSetPixelColors 0x03 0x0000) (offered 2 16 2 [3, 0, 0, 0]))
     (t.loop, t.statusErr, t.fChannel)) = (.idle, .channelMismatch, 3) ∧
    (let t := after (exec (.opcSetPixelColors 0x00 0x0001) (offered 2 4 0 [0, 0, 0, 1, 0xAA]))
     (t.statusErr, t.fLen, t.rxLen)) = (.payloadTooLarge, 1, 4) ∧
    (let t := after (exec (.opcSetPixelColors 0x00 0x0001) (offered 2 16 2 [0, 0, 0, 1]))
     (t.statusErr, t.fLen, t.loop)) = (.truncatedPayload, 1, .idle) := by decide
/-- V7: command 01. -/
theorem test_unsupported0 :
    (let t := after (exec (.opcUnsupported0 0x02 0x0000) (offered 2 16 2 [2, 1, 0, 0]))
     (t.statusErr, t.fChannel, t.fCommand, t.loop)) = (.unsupportedCommand, 2, 1, .idle) := by decide
/-- Commands 03, 06, 09, 1A, 20, 71 by the rows of R82. -/
theorem test_unsupported1_to_6 :
    (let s := offered 2 16 2 [0, 0, 0, 0]
     [exec (.opcUnsupported1 0 0b1 0) s, exec (.opcUnsupported2 0 0b10 0) s, exec (.opcUnsupported3 0 0b001 0) s,
      exec (.opcUnsupported4 0 0b1010 0) s, exec (.opcUnsupported5 0 0b00000 0) s,
      exec (.opcUnsupported6 0 0b110001 0) s].map fun o => ((after o).fCommand, (after o).statusErr)) =
    [(0x03, .unsupportedCommand), (0x06, .unsupportedCommand), (0x09, .unsupportedCommand), (0x1A, .unsupportedCommand),
     (0x20, .unsupportedCommand), (0x71, .unsupportedCommand)] := by decide
/-- V8: command FF, the length is not read. -/
theorem test_unsupported7 :
    (let t := after (exec (.opcUnsupported7 0x00 0x7F 0xFFFF) (offered 2 16 2 [0, 0xFF, 0xFF, 0xFF]))
     (t.statusErr, t.fCommand, t.fLen)) = (.unsupportedCommand, 0xFF, 0) := by decide
/-- V32 and V31. -/
theorem test_enc_adalight :
    (let t := after (exec .encAdalight (toEncode 0 16 [0xFF, 0, 0]))
     (t.outLen, t.adaCnt, t.adaCk, front 9 t.outbuf)) =
      (9, 0x0000, 0x55, [0x41, 0x64, 0x61, 0, 0, 0x55, 0xFF, 0, 0].map some) ∧
    (let t := after (exec .encAdalight (toEncode 0 16 [0xAA]))
     (t.outLen, t.loop, front 7 t.outbuf)) = (7, .send, [0x41, 0x64, 0x61, 0xFF, 0xFF, 0x55, 0xAA].map some) := by decide
/-- V41 and V44. -/
theorem test_enc_awa :
    (let t := after (exec .encAwa (toEncode 1 16 [1, 2, 3]))
     (t.outLen, t.fl1, t.fl2, front 11 t.outbuf)) =
      (11, 0x06, 0x0A, [0x41, 0x77, 0x61, 0, 0, 0x55, 1, 2, 3, 0x06, 0x0A].map some) ∧
    (let t := after (exec .encAwa (toEncode 1 16 [0xFF, 0xFF, 0xFF, 1]))
     (t.outLen, t.fl1, t.fl2, t.loop)) = (12, 0x01, 0x01, .send) := by decide
/-- V51. -/
theorem test_enc_tpm2 :
    (let t := after (exec .encTpm2 (toEncode 2 16 [0x36]))
     (t.outLen, t.loop, t.adaCk, front 6 t.outbuf)) = (6, .send, 0, [0xC9, 0xDA, 0, 1, 0x36, 0x36].map some) := by decide
/-- V69: the reserved selection. -/
theorem test_psel_reserved :
    (let t := after (exec .pselReserved (ready 2 16 0))
     (t.hs, t.hsCause, t.loop, t.cfgProtocol, dgReady t)) = (.failed, .cfgInvalid, .idle, 3, false) := by decide
/-- S7, first half, and R179. -/
theorem test_hs_magic :
    (let t := after (exec .hsMagic (fresh 0 16 0))
     (t.hs, t.hsCause, t.hsCnt, front 4 t.hsBuf)) = (.ready, .noCause, 4, [0x41, 0x64, 0x61, 0x0A].map some) ∧
    after (exec .hsMagic (fresh 1 16 0)) = fresh 1 16 0 := by decide
/-- S7, second half (P4). -/
theorem test_hs_mismatch :
    (let t := after (exec (.hsMismatch 0x41 0x64 0x61 0x58) (fresh 0 16 0))
     (t.hs, t.hsCause, t.hsCnt, front 4 t.hsBuf)) = (.failed, .mismatch, 4, [0x41, 0x64, 0x61, 0x58].map some) := by decide
/-- The headers of S6 and V41: laid out in `ENCODE`, sent in `SEND`. -/
theorem test_tx_ada_headers :
    front 6 (after (exec (.txAdalightHdr 0x0001 0x54) (toEncode 0 16 []))).outbuf =
      [0x41, 0x64, 0x61, 0, 1, 0x54].map some ∧
    (let t := after (exec (.txAwaHdr 0x0000 0x55) (toSend 1 16 [0x41, 0x77, 0x61, 0, 0, 0x55, 1, 2, 3, 6, 0x0A] 3 0))
     (t.tx, t.txPtr, t.loop)) = ([0x41, 0x77, 0x61, 0, 0, 0x55], 6, .send) := by decide
/-- The footer of V41 ends its frame. -/
theorem test_tx_awa_footer :
    (let t := after (exec (.txAwaFtr 0x06 0x0A) (toSend 1 16 [0x41, 0x77, 0x61, 0, 0, 0x55, 1, 2, 3, 6, 0x0A] 3 9))
     (t.tx, t.txPtr, t.loop, t.pulses.sent)) = ([0x06, 0x0A], 11, .idle, true) := by decide
/-- V75's four bytes, and the end marker of V50. -/
theorem test_tx_tpm2 :
    (let t := after (exec (.txTpm2Hdr 3) (toSend 2 16 [0xC9, 0xDA, 0, 3, 1, 2, 3, 0x36] 3 0))
     (t.tx, t.txPtr, t.loop)) = ([0xC9, 0xDA, 0, 3], 4, .send) ∧
    (let t := after (exec .txTpm2Ftr (toSend 2 16 [0xC9, 0xDA, 0, 0, 0x36] 0 4))
     (t.tx, t.txPtr, t.loop)) = ([0x36], 5, .idle) := by decide

/-! ### One step of the machine -/

/-- A table word placed is the word the very next step runs: a header, an encoder, a handshake word, an emitted footer. -/
theorem test_placed_words_run :
    (after (step (State.reset.withFetchWord 32 0x05000000))).statusErr = .channelMismatch ∧
    (after (step (State.reset.withFetchWord 8 0x02))).outLen = 5 ∧
    (after (step (State.reset.withFetchWord 32 0x4164610A))).hs = .ready ∧
    (after (step (State.reset.withFetchWord 8 0x36))).tx = [0x36] := by decide
/-- R102: no byte of `RXBUF` is read for a short datagram (V1). -/
theorem test_step_empty_datagram :
    (let t := after (step (offered 2 16 2 []))
     (t.statusErr, t.loop, t.events)) = (.tooShort, .idle, [.drop .tooShort]) := by decide
/-- V68: the byte before the tick in one clock cycle. -/
theorem test_step_byte_before_tick :
    (let s : State := { fresh 0 16 0 with hsBuf := Mem.empty.writeBytes 0 [0x41, 0x64, 0x61], hsCnt := 3, hsTimer := 2 }
     let p : PortIn :=
       { rst := false, straps := s.straps, dgValid := false, dgData := 0, dgLast := false, dgKeep := false
         txReady := false, srxValid := true, srxData := 0x0A, tickMs := true }
     let t := after (step { s with script := [.cycle p false] })
     (t.hs, t.hsCause, t.hsTimer)) = (.ready, .noCause, 2) := by decide
/-- V67: the third tick times out. -/
theorem test_step_third_tick :
    (let t := after (step { fresh 0 16 0 with hsTimer := 2, script := [.tick] })
     (t.hs, t.hsCause, t.hsTimer)) = (.failed, .timedOut, 3) := by decide
/-- R95, R96: a line of the notation is the stimuli it stands for. -/
theorem test_script_line :
    (ScriptLine.opc 0x00 [0x36] .run).stimuli = [.datagram [0, 0, 0, 1, 0x36], .turn, .turn, .txRun] := by decide

/-! ### Witnesses: states and operands that meet the hypotheses of each statement together, clause by clause at the ends of their ranges -/

/-- The state with one stimulus at the head of its script. -/
def facing (e : Stimulus) (s : State) : State := { s with script := [e] }

/-- Ports at rest. -/
def idlePorts (s : State) : PortIn :=
  { rst := false, straps := s.straps, dgValid := false, dgData := 0, dgLast := false, dgKeep := false
    txReady := false, srxValid := false, srxData := 0, tickMs := false }

/-- A TPM2 frame of an empty payload at its start in `SEND`, with everything else as a run leaves it. -/
def sendingEmpty : State :=
  { toSend 2 8 [0xC9, 0xDA, 0, 0, 0x36] 0 0 with rxbuf := Mem.empty.writeBytes 0 [0, 0, 0, 0], rxLen := 4 }

theorem test_witness_DecodeGivesBackEncoded :
    (Instr.hsMismatch 0x41 0x64 0x61 0x58).wellFormed = true ∧ (Instr.txAwaHdr 0xFFFF 0x55).wellFormed = true ∧
    (Instr.txAwaFtr 0xFE 0x00).wellFormed = true := by decide

theorem test_witness_EncodeGivesBackDecoded : decode .awaFtr [0x51, 0x83, 0x00] = .ok (.txAwaFtr 0x51 0x83, [0x00]) := by decide

theorem test_witness_StepRunsFetchedInstruction :
    (let s := offered 2 4 0 [0, 1, 0, 0]
     s.script = [] ∧ s.loop = .decode ∧ 4 ≤ s.rxLen ∧ s.rxLen ≤ s.rxbufSize ∧ s.rxbuf.read 0 = some 0 ∧
       s.rxbuf.read 1 = some 1 ∧ s.rxbuf.read 2 = some 0 ∧ s.rxbuf.read 3 = some 0 ∧
       decode .opcHdr [0, 1, 0, 0] = .ok (.opcUnsupported0 0 0, [])) ∧
    (let s := facing .turn (toEncode 2 8 [])
     s.script.head? = some .turn ∧ s.loop = .encode ∧ s.cfgProtocol ≠ 3#2 ∧
       decode .psel [s.cfgProtocol.setWidth 8] = .ok (.encTpm2, [])) := by decide

theorem test_witness_StepRunsStimulusInstruction :
    (let s : State := { facing (.srx 0x0A) (fresh 0 8 0) with hsBuf := Mem.empty.writeBytes 0 [0x41, 0x64, 0x61], hsCnt := 3 }
     s.script.head? = some (.srx 0x0A) ∧ s.hs = .awaiting ∧ s.hsCnt = 3#3 ∧ s.hsBuf.read 0 = some 0x41 ∧
       s.hsBuf.read 1 = some 0x64 ∧ s.hsBuf.read 2 = some 0x61 ∧
       decode .hsMagic [0x41, 0x64, 0x61, 0x0A] = .ok (.hsMagic, [])) ∧
    (let st : Straps := { cfgProtocol := 3, cfgChannel := 0, cfgHsTimeoutMs := 0 }
     (facing (.reset st) (fresh 0 8 0)).script.head? = some (.reset st) ∧ st.cfgProtocol = 3#2) ∧
    (let s := facing (.txStep 4) sendingEmpty
     let bytes : List Byte := [0xC9, 0xDA, 0, 0]
     s.script.head? = some (.txStep bytes.length) ∧ s.loop = .send ∧ protocolOf s.cfgProtocol = some .tpm2 ∧
       s.txPtr = 0#17 ∧ bytes.length = (pspec .tpm2).headerLen ∧ bytes.length ≤ s.outbufSize ∧
       (∀ j < bytes.length, s.outbuf.read j = bytes[j]?) ∧
       decode (pspec .tpm2).headerFormat bytes = .ok (.txTpm2Hdr 0, [])) ∧
    (let s : State := { facing (.txStep 1) sendingEmpty with txPtr := 4 }
     let bytes : List Byte := [0x36]
     s.script.head? = some (.txStep bytes.length) ∧ s.loop = .send ∧ protocolOf s.cfgProtocol = some .tpm2 ∧
       (pspec .tpm2).footerFormat = some .tpm2Ftr ∧ s.txPtr.toNat = (pspec .tpm2).headerLen + s.fLen.toNat ∧
       bytes.length = (pspec .tpm2).footerLen ∧ s.txPtr.toNat + bytes.length ≤ s.outbufSize ∧
       (∀ j < bytes.length, s.outbuf.read (s.txPtr.toNat + j) = bytes[j]?) ∧
       decode .tpm2Ftr bytes = .ok (.txTpm2Ftr, [])) := by decide

theorem test_witness_ShortDatagramIsTooShort :
    (offered 2 8 0 [0, 0, 0]).loop = .decode ∧ (offered 2 8 0 [0, 0, 0]).rxLen < 4 ∧
    (offered 2 8 0 []).loop = .decode ∧ (offered 2 8 0 []).rxLen < 4 ∧
    opcFields (.opcUnsupported7 1 0x7F 2) = some (1, 0xFF, 2) := by decide

theorem test_witness_ForeignChannelIsDropped :
    opcFields (.opcUnsupported0 3 0) = some (3, 1, 0) ∧
    (let s := offered 2 8 2 [3, 1, 0, 0]
     s.loop = .decode ∧ 4 ≤ s.rxLen ∧ ((3 : Byte) ≠ 0#8 ∧ 3 ≠ s.cfgChannel) ∧
       goesOn (exec (.opcUnsupported0 3 0) s) = true) := by decide

theorem test_witness_UnsupportedCommandIsDropped :
    (let s := offered 2 8 2 [0, 1, 0, 0]
     s.loop = .decode ∧ 4 ≤ s.rxLen ∧ ((0 : Byte) = 0#8 ∨ 0 = s.cfgChannel) ∧ ((2 : Byte) = 0#8 ∨ 2 = s.cfgChannel) ∧
       opcFields (.opcUnsupported0 2 0) = some (2, 1, 0) ∧ goesOn (exec (.opcUnsupported0 2 0) s) = true) := by decide

/-- `4 + dataLen` = `RXBUF_SIZE` = `RX_LEN`, with and without the warning. -/
theorem test_witness_SetPixelColorsIsAccepted :
    (let s := offered 2 8 2 [2, 0, 0, 4, 1, 2, 3, 4]
     s.loop = .decode ∧ ((2 : Byte) = 0#8 ∨ 2 = s.cfgChannel) ∧ 4 + (4 : Half).toNat ≤ s.rxbufSize ∧
       4 + (4 : Half).toNat ≤ s.rxLen ∧ 4 + (3 : Half).toNat ≤ s.rxLen) := by decide

/-- One byte too many, one byte less, and the least `RXBUF_SIZE` that no length exceeds. -/
theorem test_witness_OversizedPayloadIsDropped :
    (let s := offered 2 8 2 [2, 0, 0, 5]
     s.loop = .decode ∧ 4 ≤ s.rxLen ∧ ((2 : Byte) = 0#8 ∨ 2 = s.cfgChannel) ∧ s.rxbufSize < 4 + (5 : Half).toNat ∧
       ¬ s.rxbufSize < 4 + (4 : Half).toNat ∧ goesOn (exec (.opcSetPixelColors 2 4) s) = true) ∧
    (let s := offered 2 65539 2 [2, 0, 0xFF, 0xFF]
     s.loop = .decode ∧ 4 ≤ s.rxLen ∧ 65539 ≤ s.rxbufSize ∧ opcFields (.opcSetPixelColors 2 0xFFFF) = some (2, 0, 0xFFFF) ∧
       goesOn (exec (.opcSetPixelColors 2 0xFFFF) s) = true) := by decide

theorem test_witness_TruncatedPayloadIsDropped :
    (let s := offered 2 8 2 [2, 0, 0, 2, 0xAA]
     s.loop = .decode ∧ 4 ≤ s.rxLen ∧ ((2 : Byte) = 0#8 ∨ 2 = s.cfgChannel) ∧ 4 + (2 : Half).toNat ≤ s.rxbufSize ∧
       s.rxLen < 4 + (2 : Half).toNat ∧ ¬ s.rxLen < 4 + (1 : Half).toNat ∧
       goesOn (exec (.opcSetPixelColors 2 2) s) = true) := by decide

theorem test_witness_EveryHeaderHasOneVerdict :
    opcFields (.opcSetPixelColors 2 1) = some (2, 0, 1) ∧ (offered 2 8 2 [2, 0, 0, 1, 0xAA]).loop = .decode := by decide

/-- Two states that differ in the protocol and in an earlier datagram's registers. -/
theorem test_witness_DecodeIsPure :
    opcFields (.opcSetPixelColors 2 1) = some (2, 0, 1) ∧
    (let s := offered 2 8 2 [2, 0, 0, 1, 0xAA]
     let s' : State := { offered 1 8 2 [2, 0, 0, 1, 0xBB] with fLen := 7, statusErr := .tooShort }
     s.loop = .decode ∧ s'.loop = .decode ∧ s'.rxLen = s.rxLen ∧ s'.cfgChannel = s.cfgChannel ∧
       s'.rxbufSize = s.rxbufSize ∧ goesOn (exec (.opcSetPixelColors 2 1) s) = true ∧
       goesOn (exec (.opcSetPixelColors 2 1) s') = true) := by decide

/-- One state for each of the five errors. -/
theorem test_witness_RaiseChangesNothingElse :
    opcFields (.opcSetPixelColors 2 5) = some (2, 0, 5) ∧ opcFields (.opcUnsupported0 2 5) = some (2, 1, 5) ∧
    ([(offered 2 8 2 [2, 0, 0], Instr.opcSetPixelColors 2 5), (offered 2 8 3 [2, 0, 0, 5], .opcSetPixelColors 2 5),
      (offered 2 8 2 [2, 1, 0, 5], .opcUnsupported0 2 5), (offered 2 8 2 [2, 0, 0, 5], .opcSetPixelColors 2 5),
      (offered 2 9 2 [2, 0, 0, 5], .opcSetPixelColors 2 5)].map fun x =>
        (x.1.loop, goesOn (exec x.2 x.1), (after (exec x.2 x.1)).statusErr)) =
      [(.decode, true, .tooShort), (.decode, true, .channelMismatch), (.decode, true, .unsupportedCommand),
       (.decode, true, .payloadTooLarge), (.decode, true, .truncatedPayload)] := by decide

theorem test_witness_CutDatagramKeepsVerdict :
    opcFields (.opcSetPixelColors 0 5) = some (0, 0, 5) ∧
    (let s : State := { offered 2 8 2 [0, 0, 0, 5] with rxLen := 9 }
     4 ≤ s.rxbufSize ∧ s.loop = .decode ∧ goesOn (exec (.opcSetPixelColors 0 5) s) = true ∧
       goesOn (exec (.opcSetPixelColors 0 5) { s with rxLen := min s.rxLen s.rxbufSize }) = true) := by decide

theorem test_witness_CountFieldAndChecksumOfLength :
    3 ≤ (3 : Half).toNat ∧ 3 ≤ (0xFFFF : Half).toNat ∧ (2 : Half).toNat < 3 ∧ (0 : Half).toNat < 3 := by decide

/-- The hypotheses the three encoders share, for an empty payload and for one that fills the buffer. -/
theorem test_witness_EncodersLayOutFrame :
    ([(0, []), (1, []), (2, []), (0, [1, 2, 3, 4]), (1, [1, 2, 3, 4]), (2, [1, 2, 3, 4])] : List (BitVec 2 × List Byte)).all
      (fun x =>
        let s := toEncode x.1 (4 + x.2.length) x.2
        decide (s.loop = .encode ∧ x.2.length = s.fLen.toNat ∧ 4 + x.2.length ≤ s.rxbufSize ∧
          ∀ j < x.2.length, s.rxbuf.read (4 + j) = x.2[j]?)) = true := by decide

theorem test_witness_OutLenIsFrameLength :
    (toEncode 0 8 [1]).loop = .encode ∧ goesOn (exec .encAdalight (toEncode 0 8 [1])) = true ∧
    (toEncode 1 8 [1]).loop = .encode ∧ goesOn (exec .encAwa (toEncode 1 8 [1])) = true ∧
    (toEncode 2 8 [1]).loop = .encode ∧ goesOn (exec .encTpm2 (toEncode 2 8 [1])) = true := by decide

theorem test_witness_Tpm2KeepsDatagramBytes :
    (let s := toEncode 2 8 [1, 2]
     s.loop = .encode ∧ s.rxbuf.read 2 = some 0 ∧ s.rxbuf.read 3 = some 2 ∧ s.fLen = be16 0 2 ∧
       goesOn (exec .encTpm2 s) = true) := by decide

/-- A header at the front of `OUTBUF`, and a footer that ends exactly at its end. -/
theorem test_witness_EmittedWordIsLaidOut :
    (let s := toEncode 1 8 [1, 2, 3, 4]
     s.loop = .encode ∧ emittedWord s.fLen.toNat (.txAwaFtr 6 7) = some (10, [6, 7]) ∧ 10 + [6, 7].length ≤ s.outbufSize ∧
       emittedWord s.fLen.toNat (.txAwaHdr 0 0x55) = some (0, [0x41, 0x77, 0x61, 0, 0, 0x55]) ∧
       0 + 6 ≤ s.outbufSize) := by decide

/-- A header that leaves bytes to send, and a footer that ends the frame; both stand in `OUTBUF` at `TX_PTR`. -/
theorem test_witness_EmittedWordIsSent :
    (let s := sendingEmpty
     let w : List Byte := [0xC9, 0xDA, 0, 0]
     emittedWord s.fLen.toNat (.txTpm2Hdr 0) = some (0, w) ∧ s.loop = .send ∧ s.txPtr.toNat + w.length ≤ s.outLen.toNat ∧
       ¬ s.txPtr.toNat + w.length = s.outLen.toNat) ∧
    (let s : State := { sendingEmpty with txPtr := 4 }
     let w : List Byte := [0x36]
     emittedWord s.fLen.toNat .txTpm2Ftr = some (4, w) ∧ s.loop = .send ∧ s.txPtr.toNat + w.length = s.outLen.toNat) := by decide

theorem test_witness_EmittedWordIsItsBeats :
    (let s := sendingEmpty
     let w : List Byte := [0xC9, 0xDA, 0, 0]
     emittedWord s.fLen.toNat (.txTpm2Hdr 0) = some (0, w) ∧ s.loop = .send ∧ s.txPtr.toNat + w.length ≤ s.outLen.toNat ∧
       s.outLen.toNat ≤ s.outbufSize ∧ ∀ j < w.length, s.outbuf.read (s.txPtr.toNat + j) = w[j]?) := by decide

/-- The first byte, the last byte, a phase without a byte, and a cycle in which the transmitter is not ready. -/
theorem test_witness_TxBeatSendsOneByte :
    (let s := sendingEmpty
     s.loop = .send ∧ s.txPtr.toNat < s.outLen.toNat ∧ s.txPtr.toNat < s.outbufSize ∧
       s.outbuf.read s.txPtr.toNat = some 0xC9) ∧
    (let s : State := { sendingEmpty with txPtr := 4 }
     s.loop = .send ∧ s.txPtr.toNat < s.outLen.toNat ∧ s.txPtr.toNat + 1 = s.outLen.toNat ∧
       s.txPtr.toNat < s.outbufSize ∧ s.outbuf.read s.txPtr.toNat = some 0x36) ∧
    (ready 2 8 0).loop ≠ .send ∧
    (sendingEmpty.loop = .send ∧ sendingEmpty.hs = .ready ∧ (idlePorts sendingEmpty).rst = false ∧
      (idlePorts sendingEmpty).txReady = false) := by decide

theorem test_witness_TransmitterGetsRestOfFrame :
    (let s : State := { sendingEmpty with txPtr := 3 }
     let r : List Byte := [0, 0x36]
     s.loop = .send ∧ s.txPtr.toNat < s.outLen.toNat ∧ s.outLen.toNat ≤ s.outbufSize ∧
       r.length = s.outLen.toNat - s.txPtr.toNat ∧ ∀ j < r.length, s.outbuf.read (s.txPtr.toNat + j) = r[j]?) := by decide

/-- V14, accepted, and V5, dropped, as one iteration. -/
theorem test_witness_IterationTranslatesDatagram :
    ([[0, 0, 0, 1, 0x7F, 0x99, 0x99], [3, 0, 0, 0]] : List (List Byte)).all
      (fun d =>
        let s : State := { ready 2 8 2 with script := .datagram d :: .turn :: .turn :: .txRun :: [] }
        decide (4 ≤ s.rxbufSize ∧ s.hs = .ready ∧ s.loop = .idle ∧ protocolOf s.cfgProtocol = some .tpm2 ∧
          s.script = .datagram d :: .turn :: .turn :: .txRun :: [])) = true ∧
    datagramFrame 8 2 .tpm2 [0, 0, 0, 1, 0x7F, 0x99, 0x99] = .ok [0xC9, 0xDA, 0, 1, 0x7F, 0x36] ∧
    datagramFrame 8 2 .tpm2 [3, 0, 0, 0] = .error .channelMismatch := by decide

theorem test_witness_TxGrowsOnlyInSend :
    (let s := facing .txBeat sendingEmpty
     isReset (nextStimulus s) = false ∧ goesOn (step s) = true ∧ s.loop = .send) ∧
    (let s := facing .txBeat (ready 2 8 0)
     isReset (nextStimulus s) = false ∧ goesOn (step s) = true ∧ s.loop ≠ .send) := by decide

theorem test_witness_DatagramIsReceived :
    ((ready 2 8 0).hs = .ready ∧ (ready 2 8 0).loop = .idle) ∧ ¬ ((fresh 0 8 0).hs = .ready ∧ (fresh 0 8 0).loop = .idle) ∧
    ¬ (sendingEmpty.hs = .ready ∧ sendingEmpty.loop = .idle) := by decide

theorem test_witness_BeatsAreTheDatagram : (ready 2 8 0).hs = .ready ∧ (ready 2 8 0).loop = .idle := by decide

theorem test_witness_PayloadIsStableInIteration :
    [offered 2 8 0 [0, 0, 0, 0], toEncode 2 8 [], sendingEmpty].all (fun s =>
      let t := facing (.datagram [1, 2, 3]) s
      !isReset (nextStimulus t) && goesOn (step t)) = true ∧
    [offered 2 8 0 [0, 0, 0, 0], toEncode 2 8 [], sendingEmpty].map (fun s => s.loop) = [.decode, .encode, .send] := by decide

theorem test_witness_HandshakeWordDecides : (fresh 0 8 0).hs = .awaiting ∧ (fresh 1 8 0).hs ≠ .awaiting := by decide

/-- The first byte, the third and the fourth. -/
theorem test_witness_SerialByteIsHandshake :
    ((fresh 0 8 0).hs = .awaiting ∧ (fresh 0 8 0).hsCnt.toNat < 3) ∧
    (let s : State := { fresh 0 8 0 with hsCnt := 2 }
     s.hs = .awaiting ∧ s.hsCnt.toNat < 3) ∧
    (let s : State := { fresh 0 8 0 with hsBuf := Mem.empty.writeBytes 0 [0x41, 0x64, 0x61], hsCnt := 3 }
     s.hs = .awaiting ∧ s.hsCnt = 3#3 ∧ s.hsBuf.read 0 = some 0x41 ∧ s.hsBuf.read 1 = some 0x64 ∧
       s.hsBuf.read 2 = some 0x61) ∧
    (fresh 1 8 0).hs ≠ .awaiting := by decide

theorem test_witness_TimeoutFailsAwaitingHandshake :
    ((fresh 0 8 0).hs = .awaiting ∧ (fresh 0 8 0).hsTimer.toNat < 65535) ∧
    (let s : State := { fresh 0 8 0 with hsTimer := 65534 }
     s.hs = .awaiting ∧ s.hsTimer.toNat < 65535) ∧
    (let s : State := { fresh 0 8 0 with hsTimer := 65535 }
     s.hs = .awaiting ∧ s.hsTimer.toNat = 65535) ∧ (fresh 3 8 0).hs ≠ .awaiting := by decide

theorem test_witness_HandshakeStateIsFinal :
    (let s := facing (.srx 0x41) (fresh 1 8 0)
     isReset (nextStimulus s) = false ∧ goesOn (step s) = true ∧ s.hs ≠ .awaiting) ∧
    (let s := facing (.srx 0x41) (fresh 0 8 0)
     isReset (nextStimulus s) = false ∧ goesOn (step s) = true ∧ (after (step s)).hs = .awaiting) := by decide

theorem test_witness_FailedSessionDoesNothing :
    (let s := facing (.datagram [0, 0, 0, 0]) (fresh 3 8 0)
     s.hs = .failed ∧ s.loop = .idle ∧ isReset (nextStimulus s) = false) := by decide

theorem test_witness_ByteComesBeforeTick :
    (let s := fresh 0 8 0
     let p : PortIn := { idlePorts s with srxValid := true, tickMs := true }
     p.rst = false ∧ p.srxValid = true ∧ p.tickMs = true ∧ s.hs = .awaiting ∧ s.loop = .idle) := by decide

/-- A step from each phase: a stimulus that moves it on. -/
theorem test_witness_LoopFollowsTransitionTable :
    ([(facing (.rxBeat 0 true false) (ready 2 8 0)), (facing (.rxBeat 0 true true) { ready 2 8 0 with loop := .recv }),
      offered 2 8 0 [0, 0, 0, 0], offered 2 8 0 [0, 1, 0, 0], toEncode 2 8 [],
      facing .txBeat { sendingEmpty with txPtr := 4 }].map fun s =>
        (isReset (nextStimulus s), goesOn (step s), s.loop, (after (step s)).loop)) =
      [(false, true, .idle, .recv), (false, true, .recv, .decode), (false, true, .decode, .encode),
       (false, true, .decode, .idle), (false, true, .encode, .send), (false, true, .send, .idle)] := by decide

theorem test_witness_DisabledInstructionDoesNothing :
    (opcFields (.opcUnsupported0 0 0) = some (0, 1, 0) ∧ (ready 2 8 0).loop ≠ .decode) ∧
    (Instr.encAwa.format = .psel ∧ Instr.encAwa ≠ .pselReserved ∧ (ready 2 8 0).loop ≠ .encode) ∧
    (Instr.hsMagic.format = .hsMagic ∧ (ready 2 8 0).hs ≠ .awaiting) ∧
    (emittedWord (ready 2 8 0).fLen.toNat .txTpm2Ftr = some (4, [0x36]) ∧ (ready 2 8 0).loop ≠ .encode ∧
      (ready 2 8 0).loop ≠ .send) := by decide

theorem test_witness_ReadyCycleIsOneLoopOperation :
    [ready 2 8 0, offered 2 8 0 [0, 0, 0, 0], sendingEmpty].all (fun s => s.hs = .ready && !(idlePorts s).rst) = true := by decide

/-- The invariant at a state in `SEND`. -/
theorem test_witness_PortsShowTheState : Inv sendingEmpty ∧ sendingEmpty.loop = .send := by
  refine ⟨⟨by decide, ⟨by decide, by decide⟩, ⟨by decide, by decide⟩, ⟨by decide, by decide⟩, ?_, ?_, by decide, ?_, ?_⟩, rfl⟩
  · exact ⟨by decide, by decide, fun h => absurd h (by decide)⟩
  · exact ⟨by decide, by unfold written; decide⟩
  · intro _
    unfold acceptedOk
    decide
  · intro _
    exact ⟨.tpm2, [], [], by decide⟩

theorem test_witness_ResetGivesTheTable :
    (let p : PortIn := { idlePorts (ready 2 8 0) with rst := true }
     p.rst = true ∧ p.straps = (ready 2 8 0).straps) := by decide

theorem test_witness_ConfigurationIsLatched :
    (let s := facing (.setStraps { cfgProtocol := 1, cfgChannel := 9, cfgHsTimeoutMs := 9 }) (ready 2 8 0)
     goesOn (step s) = true ∧ isReset (nextStimulus s) = false) := by decide

theorem test_witness_BuffersStayCanonical :
    (let s := toEncode 2 8 [1, 2, 3]
     goesOn (exec .encTpm2 s) = true ∧ s.rxbuf.wf ∧ s.outbuf.wf ∧ s.hsBuf.wf) := by decide

/-- The least `RXBUF_SIZE`. -/
theorem test_witness_ResetMeetsTheInvariant : 4 ≤ (fresh 0 4 0).rxbufSize := by decide

/-- A state that meets the invariant (above) and steps on. -/
theorem test_witness_StepKeepsTheInvariant : Inv sendingEmpty ∧ goesOn (step sendingEmpty) = true :=
  ⟨test_witness_PortsShowTheState.1, by decide⟩

theorem test_witness_NoStepStops : Inv sendingEmpty := test_witness_PortsShowTheState.1

/-- An Adalight session that has transmitted its first byte. -/
theorem test_witness_NoByteBeforeMagic :
    (let run := core.run 8 (freshState 4 { cfgProtocol := 0, cfgChannel := 0, cfgHsTimeoutMs := 3 }
      [.srx 0x41, .srx 0x64, .srx 0x61, .srx 0x0A, .datagram [0, 0, 0, 0], .turn, .turn, .txBeat])
     4 ≤ 4 ∧ goesOn run = true ∧ (after run).cfgProtocol = 0#2 ∧ (after run).tx ≠ []) := by decide

/-- A step that records a drop, one that records an acceptance with a warning, one that records the frame sent. -/
theorem test_witness_EventPortsShowTheStep :
    [offered 2 8 0 [0, 1, 0, 0], offered 2 8 0 [0, 0, 0, 1, 7], facing .txBeat { sendingEmpty with txPtr := 4 }].map
        (fun s => (isReset (nextStimulus s), goesOn (step s), (after (step s)).events.length - s.events.length)) =
      [(false, true, 1), (false, true, 2), (false, true, 1)] := by decide

end Sys2Proof.Tests
end

/-! The statement of `00_scope.md`, assembled from the buffer laws: a read after a range write, a bounded store, a bounded load. -/

namespace Sys2Proof.Proofs.Scope

open Sys2Proof.Machine

/-- Loading as many bytes as a list has answers that list exactly when the buffer holds it, inside its size, from the index up. -/
theorem loadBytes_own_length_iff (k : BufferId) (size : Nat) (m : Mem) (a : Nat) (bs : List Byte) :
    loadBytes k size m a bs.length = .ok bs ↔
      ∀ j < bs.length, a + j < size ∧ m.read (a + j) = bs[j]? :=
  (loadBytes_ok_iff k size m a bs.length bs).trans (and_iff_right rfl)

/-- Settles O49: one buffer law per clause (R11, R64, R68). -/
theorem bufferReadsLastWrite : Obligations.BufferReadsLastWrite := by
  intro m a i bs k size
  refine ⟨?read, ?store, ?load⟩
  case read => exact Mem.read_writeBytes m a bs i
  case store => exact fun m' => storeBytes_ok_iff k size m m' a bs
  case load => exact loadBytes_own_length_iff k size m a bs

end Sys2Proof.Proofs.Scope

/-! The statements of `10_state.md`: what a step leaves of the configuration (section 2), the buffers under every instruction, and the
event ports (section 7). The first and the last rest on `step_parts`, which says what a step that does not reset can do. -/

namespace Sys2Proof.Proofs.BlockState

open Sys2Proof Sys2Proof.Machine Sys2Proof.Safety

/-! ### Steps that reset -/

/-- `RESET` answers the fresh state for every strap value; the reserved selection takes its way through `PSEL.RESERVED` (R233). -/
theorem resetStimulus_eq (st : Straps) (s : State) :
    resetStimulus st s = .next (freshState s.rxbufSize st s.script) := by
  unfold resetStimulus
  split
  · next h3 =>
    have hst : { st with cfgProtocol := 3#2 } = st := by rw [← h3]
    rw [fetchPsel_eq, h3]
    show Host.Outcome.next (freshState s.rxbufSize { st with cfgProtocol := 3#2 } s.script) = _
    rw [hst]
  · rw [resetWith_eq]

/-- A step that resets answers the fresh state for the straps of its stimulus (R250). -/
theorem step_of_isReset {s : State} (hr : isReset (nextStimulus s) = true) :
    ∃ st, step s = .next (freshState s.rxbufSize st s.script.tail) := by
  have hstep : step s = applyStimulus (nextStimulus s) s.beginStep := rfl
  generalize nextStimulus s = e at hr hstep
  cases e with
  | reset st => exact ⟨st, hstep.trans (resetStimulus_eq st s.beginStep)⟩
  | cycle p done =>
    have hrst : p.rst = true := hr
    refine ⟨p.straps, hstep.trans ?_⟩
    rw [applyStimulus, clockCycle, if_pos hrst]
    exact resetStimulus_eq p.straps s.beginStep
  | _ => cases hr

/-! ### The configuration -/

/-- The configuration and `RXBUF_SIZE` of the two states agree. -/
def SameConfiguration (s t : State) : Prop :=
  t.rxbufSize = s.rxbufSize ∧
    t.cfgProtocol = s.cfgProtocol ∧ t.cfgChannel = s.cfgChannel ∧ t.cfgHsTimeoutMs = s.cfgHsTimeoutMs

/-- The handshake writes neither the configuration nor the parameter, whatever the straps do. -/
theorem handshakePart_sameConfiguration {s u : State} (h : HandshakePart s u) : SameConfiguration s u := by
  rw [h.frame]
  exact ⟨rfl, rfl, rfl, rfl⟩

/-- No operation of the control loop writes the configuration or the parameter. -/
theorem loopPart_sameConfiguration {u t : State} (h : LoopPart u t) : SameConfiguration u t := by
  obtain ⟨-, -, -, -, hprotocol, hchannel, htimeout, hsize⟩ := loopPart_handshake h
  exact ⟨hsize, hprotocol, hchannel, htimeout⟩

theorem SameConfiguration.trans {s u t : State} (h : SameConfiguration s u) (k : SameConfiguration u t) :
    SameConfiguration s t := by
  obtain ⟨hsize, hprotocol, hchannel, htimeout⟩ := h
  obtain ⟨ksize, kprotocol, kchannel, ktimeout⟩ := k
  exact ⟨ksize.trans hsize, kprotocol.trans hprotocol, kchannel.trans hchannel, ktimeout.trans htimeout⟩

/-- A step that does not reset keeps the configuration: neither of its two parts writes it (R24). -/
theorem step_sameConfiguration {s t : State} (hr : isReset (nextStimulus s) = false) (h : step s = .next t) :
    SameConfiguration s t := by
  obtain ⟨u, hu, ht, -⟩ := step_parts hr h
  exact (handshakePart_sameConfiguration hu).trans (loopPart_sameConfiguration ht)

/-- Settles O48: a step that resets writes the configuration but not the parameter, any other step writes neither. -/
theorem configurationIsLatched : Obligations.ConfigurationIsLatched := by
  intro s t h
  cases hr : isReset (nextStimulus s) with
  | true =>
    obtain ⟨st, hst⟩ := step_of_isReset hr
    rw [hst] at h
    cases h
    exact ⟨rfl, nofun⟩
  | false =>
    obtain ⟨hsize, hcfg⟩ := step_sameConfiguration hr h
    exact ⟨hsize, fun _ => hcfg⟩

/-! ### The buffers -/

/-- The three buffers list rising indices. -/
def Canonical (s : State) : Prop := s.rxbuf.wf ∧ s.outbuf.wf ∧ s.hsBuf.wf

/-- A state with the same three buffers is as canonical. -/
theorem Canonical.congr {s t : State} (h : Canonical s) (hrx : t.rxbuf = s.rxbuf) (hout : t.outbuf = s.outbuf)
    (hhs : t.hsBuf = s.hsBuf) : Canonical t := by
  rwa [Canonical, hrx, hout, hhs]

/-- After `RESET` no byte is listed. -/
theorem canonical_freshState (n : Nat) (st : Straps) (script : List Stimulus) :
    Canonical (freshState n st script) :=
  ⟨Mem.wf_empty, Mem.wf_empty, Mem.wf_empty⟩

/-- `DECODE` writes no buffer. -/
theorem canonical_decodeDatagram (channel command : Byte) (n : Half) {s : State} (hs : Canonical s) :
    Canonical (decodeDatagram channel command n s) := by
  have hframe := decodeDatagram_frame channel command n s
  simp only at hframe
  rw [hframe]
  exact hs

/-- Sending reads `OUTBUF` and writes no buffer. -/
theorem canonical_sendBytes (w : List Byte) {s : State} (hs : Canonical s) : Canonical (sendBytes w s) := by
  have hframe := sendBytes_frame w s
  simp only at hframe
  rw [hframe]
  exact hs

/-- Bytes laid out in `OUTBUF` keep it canonical. -/
theorem canonical_writeOutbuf (a : Nat) (w : List Byte) {s : State} (hs : Canonical s) :
    Canonical { s with outbuf := s.outbuf.writeBytes a w } := by
  obtain ⟨hrx, hout, hhs⟩ := hs
  exact ⟨hrx, Mem.wf_writeBytes hout a w, hhs⟩

/-- An encoder that ran has written `OUTBUF` and no other buffer. -/
theorem canonical_encoded {s t : State} (h : Encoded s t) (hs : Canonical s) : Canonical t := by
  cases h <;> exact (canonical_writeOutbuf 0 _ hs).congr rfl rfl rfl

/-- An emitted word writes `OUTBUF` in `ENCODE`, and no buffer in any other phase. -/
theorem canonical_emitWord {a : Nat} {w : List Byte} {s t : State} (h : emitWord a w s = .next t) (hs : Canonical s) :
    Canonical t := by
  cases hl : s.loop with
  | encode =>
    rw [emitWord_encode hl] at h
    obtain ⟨-, hk⟩ := layOut_eq_next h
    cases hk
    exact canonical_writeOutbuf a w hs
  | send =>
    rw [emitWord_send hl] at h
    cases h
    exact canonical_sendBytes w hs
  | idle | recv | decode =>
    simp only [emitWord, hl] at h
    cases h
    exact hs

/-- The four handshake bytes keep `HS_BUF` canonical. -/
theorem canonical_receiveHsWord (b0 b1 b2 b3 : Byte) {s : State} (hs : Canonical s) :
    Canonical (receiveHsWord b0 b1 b2 b3 s) := by
  obtain ⟨hrx, hout, hhs⟩ := hs
  exact ⟨hrx, hout, Mem.wf_writeBytes hhs 0 _⟩

/-! One lemma for each format's rows. -/

theorem canonical_exec_opc {i : Instr} {channel command : Byte} {n : Half} {s t : State}
    (hi : opcFields i = some (channel, command, n)) (h : exec i s = .next t) (hs : Canonical s) : Canonical t := by
  rw [exec_opc hi] at h
  cases h
  exact canonical_decodeDatagram channel command n hs

theorem canonical_exec_emitted {i : Instr} {a : Nat} {w : List Byte} {s t : State}
    (hi : emittedWord s.fLen.toNat i = some (a, w)) (h : exec i s = .next t) (hs : Canonical s) : Canonical t := by
  rw [exec_emitted hi] at h
  exact canonical_emitWord h hs

/-- An encoder writes `OUTBUF` where it runs, and out of its phase leaves the state as it is (log 5). -/
theorem canonical_encoder {encoder : State → Out} {s t : State}
    (hrun : s.loop = .encode → encoder s = .next t → Encoded s t) (hoff : s.loop ≠ .encode → encoder s = .next s)
    (h : encoder s = .next t) (hs : Canonical s) : Canonical t := by
  by_cases hl : s.loop = .encode
  · exact canonical_encoded (hrun hl h) hs
  · rw [hoff hl] at h
    cases h
    exact hs

theorem canonical_execPselReserved {s t : State} (h : execPselReserved s = .next t) : Canonical t := by
  cases h
  exact canonical_freshState s.rxbufSize _ s.script

theorem canonical_execHsMagic {s t : State} (h : execHsMagic s = .next t) (hs : Canonical s) : Canonical t := by
  unfold execHsMagic at h
  split at h <;> cases h
  · exact (canonical_receiveHsWord _ _ _ _ hs).congr rfl rfl rfl
  · exact hs

theorem canonical_execHsMismatch {b0 b1 b2 b3 : Byte} {s t : State} (h : execHsMismatch b0 b1 b2 b3 s = .next t)
    (hs : Canonical s) : Canonical t := by
  unfold execHsMismatch at h
  split at h <;> cases h
  · exact (canonical_receiveHsWord b0 b1 b2 b3 hs).congr rfl rfl rfl
  · exact hs

/-- Settles O50, by the rows of the opcode table, format by format. -/
theorem buffersStayCanonical : Obligations.BuffersStayCanonical := by
  intro i s t h hrx hout hhs
  have hs : Canonical s := ⟨hrx, hout, hhs⟩
  show Canonical t
  cases i with
  | opcSetPixelColors | opcUnsupported0 | opcUnsupported1 | opcUnsupported2 | opcUnsupported3 | opcUnsupported4
  | opcUnsupported5 | opcUnsupported6 | opcUnsupported7 => exact canonical_exec_opc rfl h hs
  | encAdalight => exact canonical_encoder execEncAdalight_encoded (fun hl => if_pos hl) h hs
  | encAwa => exact canonical_encoder execEncAwa_encoded (fun hl => if_pos hl) h hs
  | encTpm2 => exact canonical_encoder execEncTpm2_encoded (fun hl => if_pos hl) h hs
  | pselReserved => exact canonical_execPselReserved h
  | hsMagic => exact canonical_execHsMagic h hs
  | hsMismatch => exact canonical_execHsMismatch h hs
  | txAdalightHdr | txAwaHdr | txAwaFtr | txTpm2Hdr | txTpm2Ftr => exact canonical_exec_emitted rfl h hs

/-! ### The event ports -/

/-- The pulses of the step before play no part in a step: it begins by taking them down (R38). -/
theorem step_withoutPulses (s : State) : step { s with pulses := Pulses.none } = step s := rfl

/-- The handshake records no event and raises no pulse. -/
theorem handshakePart_records_nothing {s u : State} (h : HandshakePart s u) (hp : s.pulses = Pulses.none) :
    Records s u [] := by
  have hevents : u.events = s.events := by rw [h.frame]
  have hpulses : u.pulses = s.pulses := h.quiet.elim id (·.trans hp.symm)
  exact .silent hevents hpulses

/-- A step that does not reset records its events with exactly their pulses, counted from no pulse up. -/
theorem step_records {s t : State} (hr : isReset (nextStimulus s) = false) (h : step s = .next t) :
    ∃ recorded, Records { s with pulses := Pulses.none } t recorded := by
  rw [← step_withoutPulses] at h
  obtain ⟨u, hu, ht, -⟩ := step_parts (s := { s with pulses := Pulses.none }) hr h
  obtain ⟨recorded, hrec⟩ := loopPart_records ht
  exact ⟨recorded, (handshakePart_records_nothing hu rfl).trans hrec⟩

/-- Settles O55: the ports are the pulses, and with none up before the step each is up exactly for a recorded event. -/
theorem eventPortsShowTheStep : Obligations.EventPortsShowTheStep := by
  intro s t hr h
  obtain ⟨recorded, hevents, haccept, hwarn, hdrop, hsent⟩ := step_records hr h
  simp only [Pulses.none, Bool.false_eq_true, false_or] at haccept hwarn hdrop hsent
  exact ⟨recorded, hevents, haccept, hwarn, hdrop, hsent⟩

end Sys2Proof.Proofs.BlockState

/-! The frames an encoder lays out are the closed forms of `Safety.frameOf` (R86 to R90, R133), so that the invariant's `OUTBUF` can be
compared with what `ENC.*` wrote. -/

namespace Sys2Proof.Proofs.Frames

open Sys2Proof Sys2Proof.Machine Sys2Proof.Safety

/-! ### The Fletcher sums -/

/-- One byte taken by sums that stand below 255, as numbers (R132). -/
theorem fletcherStep_ofNat {a b : Nat} (ha : a < 255) (hb : b < 255) (c : Byte) :
    fletcherStep (BitVec.ofNat 8 a, BitVec.ofNat 8 b) c =
      (BitVec.ofNat 8 ((a + c.toNat) % 255), BitVec.ofNat 8 ((b + (a + c.toNat) % 255) % 255)) := by
  have hfirst : (BitVec.ofNat 8 a).toNat = a := by rw [BitVec.toNat_ofNat]; omega
  have hsecond : (BitVec.ofNat 8 b).toNat = b := by rw [BitVec.toNat_ofNat]; omega
  simp only [fletcherStep, hfirst, hsecond]

/-- Reducing after the first byte or only at the end is the same: the second sum gains the first once for that byte and once for
each of the `n` bytes behind it. -/
theorem secondSum_mod (b x n rest : Nat) :
    ((b + x % 255) % 255 + n * (x % 255) + rest) % 255 = (b + x + n * x + rest) % 255 := by
  have hx : x % 255 ≡ x [MOD 255] := Nat.mod_modEq x 255
  have hb : (b + x % 255) % 255 ≡ b + x [MOD 255] := (Nat.mod_modEq _ 255).trans (hx.add_left b)
  exact (hb.add (hx.mul_left n)).add_right rest

/-- The accumulation from any two sums below 255. -/
theorem foldl_fletcherStep (p : List Byte) {a b : Nat} (ha : a < 255) (hb : b < 255) :
    p.foldl fletcherStep (BitVec.ofNat 8 a, BitVec.ofNat 8 b) =
      (BitVec.ofNat 8 ((a + byteSum p) % 255), BitVec.ofNat 8 ((b + p.length * a + weightedSum p) % 255)) := by
  induction p generalizing a b with
  | nil => simp [byteSum, weightedSum, Nat.mod_eq_of_lt ha, Nat.mod_eq_of_lt hb]
  | cons c p ih =>
    have hfirst : ((a + c.toNat) % 255 + byteSum p) % 255 = (a + byteSum (c :: p)) % 255 := by
      simp only [byteSum, List.map_cons, List.sum_cons]
      omega
    have hsecond :
        ((b + (a + c.toNat) % 255) % 255 + p.length * ((a + c.toNat) % 255) + weightedSum p) % 255 =
          (b + (c :: p).length * a + weightedSum (c :: p)) % 255 := by
      rw [secondSum_mod, weightedSum, List.length_cons]
      congr 1
      ring
    rw [List.foldl_cons, fletcherStep_ofNat ha hb, ih (Nat.mod_lt _ (by decide)) (Nat.mod_lt _ (by decide)),
      hfirst, hsecond]

/-- `FLETCHER16` in closed form (R133). -/
theorem fletcher16_eq (p : List Byte) :
    fletcher16 p = (BitVec.ofNat 8 (byteSum p % 255), BitVec.ofNat 8 (weightedSum p % 255)) := by
  have h := foldl_fletcherStep p (a := 0) (b := 0) (by decide) (by decide)
  simp only [Nat.zero_add, Nat.mul_zero] at h
  exact h

/-- Both sums are 0 to 254 (R133). -/
theorem fletcher16_le (p : List Byte) : (fletcher16 p).1.toNat ≤ 254 ∧ (fletcher16 p).2.toNat ≤ 254 := by
  simp only [fletcher16_eq, BitVec.toNat_ofNat]
  omega

/-! ### The headers -/

/-- The high byte of a field of known value. -/
theorem hiByte_eq_ofNat {v : Half} {n : Nat} (h : v.toNat = n) : hiByte v = BitVec.ofNat 8 (n / 256) := by
  apply BitVec.eq_of_toNat_eq
  have := v.isLt
  rw [hiByte_toNat, BitVec.toNat_ofNat, h]
  omega

/-- The low byte of a field of known value. -/
theorem loByte_eq_ofNat {v : Half} {n : Nat} (h : v.toNat = n) : loByte v = BitVec.ofNat 8 (n % 256) := by
  apply BitVec.eq_of_toNat_eq
  rw [loByte_toNat, BitVec.toNat_ofNat, h]
  omega

/-- The count field is `(n div 3 - 1) mod 2^16` (R90). -/
theorem countField_toNat (n : Half) : (countField n).toNat = countOf n.toNat := by
  have := n.isLt
  simp only [countField, countOf, ledCount, BitVec.toNat_sub, BitVec.toNat_ofNat, show (1 : Half).toNat = 1 from rfl]
  omega

/-- The header an Adalight or AWA encoder lays out (R86, R87). -/
theorem adaHeaderBytes_eq (magic1 : Byte) (n : Half) :
    adaHeaderBytes magic1 (countField n) (adaXor (countField n)) = headerOf magic1 n.toNat := by
  rw [adaHeaderBytes, adaXor, hiByte_eq_ofNat (countField_toNat n), loByte_eq_ofNat (countField_toNat n), headerOf]

/-- The header the TPM2 encoder lays out (R88). -/
theorem tpm2HeaderBytes_eq (n : Half) :
    tpm2HeaderBytes n = [0xC9#8, 0xDA#8, BitVec.ofNat 8 (n.toNat / 256), BitVec.ofNat 8 (n.toNat % 256)] := by
  rw [tpm2HeaderBytes, hiByte_eq_ofNat rfl, loByte_eq_ofNat rfl]

/-! ### The frames -/

theorem adalightFrame_eq {p : List Byte} {n : Half} (h : p.length = n.toNat) :
    adaHeaderBytes 0x64#8 (countField n) (adaXor (countField n)) ++ p = frameOf .adalight p := by
  rw [adaHeaderBytes_eq, ← h, frameOf]

theorem awaFrame_eq {p : List Byte} {n : Half} (h : p.length = n.toNat) :
    adaHeaderBytes 0x77#8 (countField n) (adaXor (countField n)) ++ p ++ [(fletcher16 p).1, (fletcher16 p).2] =
      frameOf .awa p := by
  rw [adaHeaderBytes_eq, fletcher16_eq, ← h, frameOf]

theorem tpm2Frame_eq {p : List Byte} {n : Half} (h : p.length = n.toNat) :
    tpm2HeaderBytes n ++ p ++ [0x36#8] = frameOf .tpm2 p := by
  rw [tpm2HeaderBytes_eq, ← h, frameOf]

/-- R89. -/
theorem frameOf_length (pr : Protocol) (p : List Byte) :
    (frameOf pr p).length = (pspec pr).headerLen + p.length + (pspec pr).footerLen := by
  cases pr <;> simp [frameOf, headerOf, pspec] <;> omega

theorem frameOf_adalight_length (p : List Byte) : (frameOf .adalight p).length = 6 + p.length := by
  rw [frameOf_length]
  rfl

theorem frameOf_awa_length (p : List Byte) : (frameOf .awa p).length = 8 + p.length := by
  rw [frameOf_length, Nat.add_right_comm]
  rfl

theorem frameOf_tpm2_length (p : List Byte) : (frameOf .tpm2 p).length = 5 + p.length := by
  rw [frameOf_length, Nat.add_right_comm]
  rfl

/-- The constant part of a frame is at most 8 bytes. -/
theorem pspec_lengths_le (pr : Protocol) : (pspec pr).headerLen + (pspec pr).footerLen ≤ 8 := by
  cases pr <;> decide

end Sys2Proof.Proofs.Frames

/-! The statements of `20_memory.md`: in a state that meets the invariant every access of a step stays inside its buffer and reads a
written byte (R68), so the step answers, and its answer meets the invariant again. Both halves are one predicate of an outcome,
`KeepsInv`, proved operation by operation. -/

namespace Sys2Proof.Proofs.Memory

open Sys2Proof Sys2Proof.Machine Sys2Proof.Safety Sys2Proof.Proofs.Frames

/-! ### Stability of the payload (R74) -/

/-- A control loop operation writes `RXBUF` and `RX_LEN` while a datagram is received and the frame registers in `DECODE`. -/
theorem loopPart_stable {u t : State} (h : LoopPart u t) :
    (u.loop ≠ .idle → u.loop ≠ .recv → t.rxbuf = u.rxbuf ∧ t.rxLen = u.rxLen) ∧
      (u.loop ≠ .decode → t.fChannel = u.fChannel ∧ t.fCommand = u.fCommand ∧ t.fLen = u.fLen) := by
  cases h with
  | none => exact ⟨fun _ _ => ⟨rfl, rfl⟩, fun _ => ⟨rfl, rfl, rfl⟩⟩
  | dec channel command n hl =>
    have hframe := decodeDatagram_frame channel command n u
    simp only at hframe
    rw [hframe]
    exact ⟨fun _ _ => ⟨rfl, rfl⟩, fun hne => absurd hl hne⟩
  | enc t hl ht => cases ht <;> exact ⟨fun _ _ => ⟨rfl, rfl⟩, fun _ => ⟨rfl, rfl, rfl⟩⟩
  | dg d =>
    refine ⟨fun hidle _ => ?_, fun _ => ?_⟩
    · rw [rxDatagram_disabled fun hon => hidle hon.2]
      exact ⟨rfl, rfl⟩
    · unfold rxDatagram
      split <;> exact ⟨rfl, rfl, rfl⟩
  | beat b keep last =>
    refine ⟨fun hidle hrecv => ?_, fun _ => ?_⟩
    · have hoff : dgReady u = false := by simp [dgReady, hidle, hrecv]
      rw [rxBeat_disabled hoff]
      exact ⟨rfl, rfl⟩
    · have hframe := rxBeat_frame b keep last u
      simp only at hframe
      rw [hframe]
      exact ⟨rfl, rfl, rfl⟩
  | send w hl =>
    have hframe := sendBytes_frame w u
    simp only at hframe
    rw [hframe]
    exact ⟨fun _ _ => ⟨rfl, rfl⟩, fun _ => ⟨rfl, rfl, rfl⟩⟩

/-- Settles O35: the handshake part writes none of these registers, and the control loop part only in the phases before. -/
theorem payloadIsStableInIteration : Obligations.PayloadIsStableInIteration := by
  intro s t hr h
  obtain ⟨u, hu, ht, -⟩ := step_parts hr h
  obtain ⟨hpayload, hfields⟩ := loopPart_stable ht
  rw [hu.frame] at hpayload hfields
  refine ⟨fun hl => hpayload ?_ ?_, fun hl => hfields ?_⟩
  · rcases hl with hl | hl | hl <;> simp [hl]
  · rcases hl with hl | hl | hl <;> simp [hl]
  · rcases hl with hl | hl <;> simp [hl]

/-! ### Outcomes that keep the invariant -/

/-- The outcome is a next state, and one that meets the invariant. -/
def KeepsInv (o : Out) : Prop := ∃ t, o = .next t ∧ Inv t

theorem keepsInv_next {s : State} (h : Inv s) : KeepsInv (.next s) := ⟨s, rfl, h⟩

theorem KeepsInv.andThen {o : Out} {k : State → Out} (h : KeepsInv o) (hk : ∀ s : State, Inv s → KeepsInv (k s)) :
    KeepsInv (andThen o k) := by
  obtain ⟨s, rfl, hs⟩ := h
  exact hk s hs

/-! ### What the invariant does not read -/

/-- The straps, the script, the observer's events and pulses and the Adalight checksum registers are free. -/
theorem inv_withUnread {s : State} (h : Inv s) (straps : Straps) (script : List Stimulus) (events : List Event)
    (pulses : Pulses) (adaCnt : Half) (adaCk : Byte) :
    Inv { s with
      straps := straps, script := script, events := events, pulses := pulses, adaCnt := adaCnt, adaCk := adaCk } :=
  ⟨h.size, h.rxbuf, h.outbuf, h.hsBuf, h.handshake, h.reception, h.fletcher, h.accepted, h.sending⟩

theorem inv_beginStep {s : State} (h : Inv s) : Inv s.beginStep :=
  inv_withUnread h s.straps s.script.tail s.events Pulses.none s.adaCnt s.adaCk

theorem inv_withStraps {s : State} (h : Inv s) (straps : Straps) : Inv { s with straps := straps } :=
  inv_withUnread h straps s.script s.events s.pulses s.adaCnt s.adaCk

/-! ### Reset -/

theorem handshakeOk_freshState (n : Nat) (st : Straps) (script : List Stimulus) :
    handshakeOk (freshState n st script) := by
  by_cases h0 : st.cfgProtocol = 0#2
  · simp [handshakeOk, initialHs, initialCause, h0, written]
  by_cases h3 : st.cfgProtocol = 3#2
  · simp [handshakeOk, initialHs, initialCause, h3]
  · simp [handshakeOk, initialHs, initialCause, h0, h3]

/-- After `RESET` the buffers are empty, no datagram is held and the loop is at rest (R41). -/
theorem inv_freshState {n : Nat} (hn : 4 ≤ n) (st : Straps) (script : List Stimulus) :
    Inv (freshState n st script) where
  size := hn
  rxbuf := bufferOk_empty _
  outbuf := bufferOk_empty _
  hsBuf := bufferOk_empty _
  handshake := handshakeOk_freshState n st script
  reception := ⟨Nat.zero_le _, fun i hi => absurd hi (Nat.not_lt_zero i)⟩
  fletcher := ⟨Nat.zero_le _, Nat.zero_le _⟩
  accepted := nofun
  sending := nofun

theorem keepsInv_resetStimulus {s : State} (h : Inv s) (st : Straps) : KeepsInv (resetStimulus st s) := by
  rw [BlockState.resetStimulus_eq]
  exact keepsInv_next (inv_freshState h.size st s.script)

/-! ### The handshake -/

theorem handshakeOk_awaiting {s : State} (h : s.hs = .awaiting) :
    handshakeOk s ↔
      s.cfgProtocol = 0#2 ∧ s.hsCause = .noCause ∧ s.loop = .idle ∧ s.tx = [] ∧ s.hsCnt.toNat < 4 ∧
        written s.hsBuf s.hsCnt.toNat ∧ (s.hsTimer = 0#16 ∨ s.hsTimer.toNat < s.cfgHsTimeoutMs.toNat) := by
  simp only [handshakeOk, h]

theorem handshakeOk_ready {s : State} (h : s.hs = .ready) :
    handshakeOk s ↔
      s.cfgProtocol ≠ 3#2 ∧ s.hsCause = .noCause ∧ (s.cfgProtocol = 0#2 → s.hsCnt = 4#3 ∧ holdsMagic s.hsBuf) := by
  simp only [handshakeOk, h]

theorem handshakeOk_failed {s : State} (h : s.hs = .failed) :
    handshakeOk s ↔
      s.hsCause ≠ .noCause ∧ (s.hsCause = .cfgInvalid ↔ s.cfgProtocol = 3#2) ∧
        (s.hsCause ≠ .cfgInvalid → s.cfgProtocol = 0#2) ∧ s.loop = .idle ∧ s.tx = [] := by
  simp only [handshakeOk, h]

/-- The handshake registers may change while the loop is at rest, as long as they agree among themselves. -/
theorem inv_withHandshake {s : State} (h : Inv s) (hidle : s.loop = .idle) {hs : HandshakeState} {hsBuf : Mem}
    {hsCnt : BitVec 3} {hsTimer : Half} {hsCause : HsCause} (hbuf : bufferOk hsBufSize hsBuf)
    (hok : handshakeOk
      { s with hs := hs, hsBuf := hsBuf, hsCnt := hsCnt, hsTimer := hsTimer, hsCause := hsCause }) :
    Inv { s with hs := hs, hsBuf := hsBuf, hsCnt := hsCnt, hsTimer := hsTimer, hsCause := hsCause } where
  size := h.size
  rxbuf := h.rxbuf
  outbuf := h.outbuf
  hsBuf := hbuf
  handshake := hok
  reception := h.reception
  fletcher := h.fletcher
  accepted := by simp [hidle]
  sending := by simp [hidle]

/-- A handshake that fails while `AWAITING` fails with a cause of its own (R228). -/
theorem inv_failHandshake {s : State} (h : Inv s) (ha : s.hs = .awaiting) {hsBuf : Mem} (hbuf : bufferOk hsBufSize hsBuf)
    (hsCnt : BitVec 3) (hsTimer : Half) {cause : HsCause} (hnone : cause ≠ .noCause) (hcfg : cause ≠ .cfgInvalid) :
    Inv (failHandshake cause { s with hsBuf := hsBuf, hsCnt := hsCnt, hsTimer := hsTimer }) := by
  obtain ⟨hprotocol, -, hidle, htx, -⟩ := (handshakeOk_awaiting ha).1 h.handshake
  refine inv_withHandshake h hidle hbuf ((handshakeOk_failed rfl).2 ?_)
  simp [hnone, hcfg, hprotocol, hidle, htx]

/-- The time-out, whatever the timer shows (R176). -/
theorem inv_hsTimeout {s : State} (h : Inv s) (hsTimer : Half) (ha : s.hs = .awaiting) :
    Inv (hsTimeout { s with hsTimer := hsTimer }) := by
  have hon : hsTimeout { s with hsTimer := hsTimer } =
      failHandshake (if s.hsCnt = 0 then .timedOut else .shortRead) { s with hsTimer := hsTimer } := if_pos ha
  rw [hon]
  exact inv_failHandshake h ha h.hsBuf s.hsCnt hsTimer (by split <;> decide) (by split <;> decide)

theorem inv_hsTimeout_self {s : State} (h : Inv s) : Inv (hsTimeout s) := by
  by_cases ha : s.hs = .awaiting
  · exact inv_hsTimeout h s.hsTimer ha
  · rwa [hsTimeout_disabled ha]

/-- A tick times out, or leaves the timer below its bound (R177). -/
theorem inv_hsTick {s : State} (h : Inv s) : Inv (hsTick s) := by
  by_cases ha : s.hs = .awaiting
  · obtain ⟨hprotocol, hcause, hidle, htx, hcnt, hwritten, -⟩ := (handshakeOk_awaiting ha).1 h.handshake
    simp only [hsTick, if_pos ha]
    split
    · exact inv_hsTimeout h _ ha
    · next hbelow =>
      exact inv_withHandshake h hidle h.hsBuf ((handshakeOk_awaiting (by exact ha)).2
        ⟨hprotocol, hcause, hidle, htx, hcnt, hwritten, .inr (Nat.lt_of_not_le hbelow)⟩)
  · rwa [hsTick_disabled ha]

theorem pushHsByte_eq (b : Byte) {s : State} (h : s.hsCnt.toNat < 4) :
    pushHsByte b s = .ok { s with hsBuf := s.hsBuf.write s.hsCnt.toNat b, hsCnt := s.hsCnt + 1 } := by
  have hfits : s.hsCnt.toNat + 1 ≤ hsBufSize := h
  simp [pushHsByte, storeBytes, hfits, Mem.writeBytes]

/-- A byte before the fourth is stored and counted, and decides nothing (R173, R181). -/
theorem hsRxByte_early (b : Byte) {s : State} (ha : s.hs = .awaiting) (h : s.hsCnt.toNat < 3) :
    hsRxByte b s = .next { s with hsBuf := s.hsBuf.write s.hsCnt.toNat b, hsCnt := s.hsCnt + 1 } := by
  have hne : s.hsCnt + 1 ≠ 4 := by bv_omega
  rw [hsRxByte, if_pos ha, pushHsByte_eq b (by omega), withAccess_ok]
  exact if_neg hne

/-- The fourth byte runs the handshake word of the four (R174). -/
theorem hsRxByte_fourth (b : Byte) {s : State} (ha : s.hs = .awaiting) (h : s.hsCnt = 3#3) {b0 b1 b2 : Byte}
    (h0 : s.hsBuf.read 0 = some b0) (h1 : s.hsBuf.read 1 = some b1) (h2 : s.hsBuf.read 2 = some b2) :
    hsRxByte b s = exec (decodeHs b0 b1 b2 b) { s with hsBuf := s.hsBuf.write 3 b, hsCnt := 4#3 } := by
  have hload : loadBytes .hsbuf hsBufSize (s.hsBuf.write 3 b) 0 4 = .ok [b0, b1, b2, b] := by
    refine (loadBytes_ok_iff ..).2 ⟨rfl, fun i hi => ⟨by simpa [hsBufSize] using hi, ?_⟩⟩
    rw [Mem.read_write]
    match i, hi with
    | 0, _ => exact h0
    | 1, _ => exact h1
    | 2, _ => exact h2
    | 3, _ => rfl
  have hpush : pushHsByte b s = .ok { s with hsBuf := s.hsBuf.write 3 b, hsCnt := 4#3 } := by
    rw [pushHsByte_eq b (by rw [h]; decide), h]
    rfl
  have hfetch : fetchHsWord { s with hsBuf := s.hsBuf.write 3 b, hsCnt := 4#3 } = .ok (decodeHs b0 b1 b2 b) := by
    simp only [fetchHsWord, hload, decodeWord, decode]
  rw [hsRxByte, if_pos ha, hpush, withAccess_ok, if_pos (by rfl), hfetch, withAccess_ok]

theorem holdsMagic_writeBytes (m : Mem) : holdsMagic (m.writeBytes 0 [0x41#8, 0x64#8, 0x61#8, 0x0A#8]) := by
  simp [holdsMagic, Mem.read_writeBytes]

/-- The verdict on four handshake bytes, as it is called with all of them counted (R174). -/
theorem keepsInv_decodeHs {s : State} (h : Inv s) (ha : s.hs = .awaiting) (b0 b1 b2 b3 : Byte) {hsBuf : Mem}
    (hbuf : bufferOk hsBufSize hsBuf) (hsCnt : BitVec 3) :
    KeepsInv (exec (decodeHs b0 b1 b2 b3) { s with hsBuf := hsBuf, hsCnt := hsCnt }) := by
  obtain ⟨hprotocol, hcause, hidle, -⟩ := (handshakeOk_awaiting ha).1 h.handshake
  have hword (c0 c1 c2 c3 : Byte) : bufferOk hsBufSize (hsBuf.writeBytes 0 [c0, c1, c2, c3]) :=
    bufferOk_writeBytes hbuf (by simp [hsBufSize])
  unfold decodeHs
  split
  · simp only [exec, execHsMagic, if_pos ha]
    refine keepsInv_next (inv_withHandshake h hidle (hword _ _ _ _) ((handshakeOk_ready rfl).2 ?_))
    exact ⟨by rw [hprotocol]; decide, hcause, fun _ => ⟨rfl, holdsMagic_writeBytes hsBuf⟩⟩
  · simp only [exec, execHsMismatch, if_pos ha]
    exact keepsInv_next (inv_failHandshake h ha (hword _ _ _ _) 4#3 s.hsTimer (by decide) (by decide))

/-- A byte written behind `n` written ones. -/
theorem written_write {m : Mem} {n : Nat} (h : written m n) (b : Byte) : written (m.write n b) (n + 1) := by
  intro i hi
  rw [Mem.read_write]
  split
  · rfl
  · exact h i (by omega)

theorem keepsInv_hsRxByte {s : State} (h : Inv s) (b : Byte) : KeepsInv (hsRxByte b s) := by
  by_cases ha : s.hs = .awaiting
  · obtain ⟨hprotocol, hcause, hidle, htx, hcnt, hwritten, htimer⟩ := (handshakeOk_awaiting ha).1 h.handshake
    have hbuf (i : Nat) (hi : i < 4) : bufferOk hsBufSize (s.hsBuf.write i b) :=
      bufferOk_writeBytes (bs := [b]) h.hsBuf hi
    by_cases hearly : s.hsCnt.toNat < 3
    · have hsucc : (s.hsCnt + 1).toNat = s.hsCnt.toNat + 1 := by bv_omega
      rw [hsRxByte_early b ha hearly]
      refine keepsInv_next (inv_withHandshake h hidle (hbuf _ hcnt) ((handshakeOk_awaiting (by exact ha)).2
        ⟨hprotocol, hcause, hidle, htx, ?_, ?_, htimer⟩))
      · rw [hsucc]
        omega
      · rw [hsucc]
        exact written_write hwritten b
    · have hthree : s.hsCnt = 3#3 := by bv_omega
      rw [hthree] at hwritten
      obtain ⟨b0, h0⟩ := Option.isSome_iff_exists.1 (hwritten 0 (by decide))
      obtain ⟨b1, h1⟩ := Option.isSome_iff_exists.1 (hwritten 1 (by decide))
      obtain ⟨b2, h2⟩ := Option.isSome_iff_exists.1 (hwritten 2 (by decide))
      rw [hsRxByte_fourth b ha hthree h0 h1 h2]
      exact keepsInv_decodeHs h ha b0 b1 b2 b (hbuf 3 (by decide)) 4#3
  · rw [hsRxByte_disabled ha]
    exact keepsInv_next h

/-! ### Reception -/

/-- Before `ENCODE` a block in `READY` may hold any datagram that fits `RXBUF` (R31). -/
theorem inv_withReception {s : State} (h : Inv s) (hready : s.hs = .ready) {rxbuf : Mem} {rxLen : Nat} {loop : LoopPhase}
    (hbuf : bufferOk s.rxbufSize rxbuf) (hlen : rxLen ≤ s.rxbufSize) (hwritten : written rxbuf rxLen)
    (hencode : loop ≠ .encode) (hsend : loop ≠ .send) :
    Inv { s with rxbuf := rxbuf, rxLen := rxLen, loop := loop } where
  size := h.size
  rxbuf := hbuf
  outbuf := h.outbuf
  hsBuf := h.hsBuf
  handshake := handshakeOk_of_ready h.handshake hready rfl rfl rfl rfl rfl
  reception := ⟨hlen, hwritten⟩
  fletcher := h.fletcher
  accepted := by simp [hencode, hsend]
  sending := by simp [hsend]

theorem inv_rxDatagram {s : State} (h : Inv s) (d : List Byte) : Inv (rxDatagram d s) := by
  by_cases hon : s.hs = .ready ∧ s.loop = .idle
  · rw [rxDatagram_enabled hon.1 hon.2]
    refine inv_withReception h hon.1 (bufferOk_writeBytes h.rxbuf ?_) (Nat.min_le_right ..) ?_ (by decide) (by decide)
    · simp
    · intro i hi
      rw [Mem.read_writeBytes, if_pos ⟨Nat.zero_le i, by simp; omega⟩]
      simp
      omega
  · rwa [rxDatagram_disabled hon]

/-- The byte of a beat, kept or discarded, and the phase behind it (R193). -/
theorem inv_appendBeat {s : State} (h : Inv s) (hready : s.hs = .ready) (b : Byte) (keep : Bool) {loop : LoopPhase}
    (hencode : loop ≠ .encode) (hsend : loop ≠ .send) : Inv { appendBeat b keep s with loop := loop } := by
  obtain ⟨hlen, hwritten⟩ := h.reception
  unfold appendBeat
  split
  · next hroom =>
    exact inv_withReception h hready (bufferOk_writeBytes (bs := [b]) h.rxbuf hroom.2) hroom.2
      (written_write hwritten b) hencode hsend
  · exact inv_withReception h hready h.rxbuf hlen hwritten hencode hsend

theorem inv_rxBeat {s : State} (h : Inv s) (b : Byte) (keep last : Bool) : Inv (rxBeat b keep last s) := by
  by_cases hon : dgReady s = true
  · obtain ⟨hready, -⟩ := (dgReady_iff s).1 hon
    have hencode : (if last then LoopPhase.decode else .recv) ≠ .encode := by cases last <;> decide
    have hsend : (if last then LoopPhase.decode else .recv) ≠ .send := by cases last <;> decide
    simp only [rxBeat, if_pos hon]
    split
    · next hidle =>
      have hempty : Inv { s with rxLen := 0, loop := .idle } :=
        inv_withReception h hready h.rxbuf (Nat.zero_le _) (fun i hi => absurd hi (Nat.not_lt_zero i)) (by decide)
          (by decide)
      rw [← hidle] at hempty
      exact inv_appendBeat hempty hready b keep hencode hsend
    · exact inv_appendBeat h hready b keep hencode hsend
  · rwa [rxBeat_disabled (by simpa using hon)]

/-! ### DECODE -/

/-- A datagram of at least four bytes has an `OPC_HDR` instruction in front, so `DECODE` reads it (R68, R196). -/
theorem fetchHeader_total {s : State} (h : receptionOk s) (h4 : 4 ≤ s.rxLen) :
    ∃ channel command n, fetchHeader s = .ok (decodeOpc channel command n) := by
  obtain ⟨hlen, hwritten⟩ := h
  obtain ⟨bytes, hload⟩ := loadBytes_total .rxbuf s.rxbufSize s.rxbuf 0 4 (by omega) fun i hi =>
    hwritten (0 + i) (by omega)
  match bytes, loadBytes_length hload with
  | [b0, b1, b2, b3], _ => exact ⟨b0, b1, be16 b2 b3, by simp only [fetchHeader, hload, decodeWord, decode]⟩

/-- A rejected datagram leaves the block at rest, whatever the frame registers hold (R224). -/
theorem inv_raiseError {s : State} (h : Inv s) (hready : s.hs = .ready) (e : ErrCode) (fChannel fCommand : Byte)
    (fLen : Half) :
    Inv (raiseError e { s with fChannel := fChannel, fCommand := fCommand, fLen := fLen }) where
  size := h.size
  rxbuf := h.rxbuf
  outbuf := h.outbuf
  hsBuf := h.hsBuf
  handshake := handshakeOk_of_ready h.handshake hready rfl rfl rfl rfl rfl
  reception := h.reception
  fletcher := h.fletcher
  accepted := nofun
  sending := nofun

theorem warn3_eq_decide (n : Half) : warn3 n = decide (n.toNat % 3 ≠ 0) := by
  rw [Bool.eq_iff_iff]
  simp [warn3]

/-- The checks of `DECODE` passed are what the invariant says of an accepted frame (R32, R108). -/
theorem inv_acceptFrame {s : State} (h : Inv s) (hready : s.hs = .ready) {channel : Byte} {n : Half}
    (hchannel : ¬ (channel ≠ 0#8 ∧ channel ≠ s.cfgChannel)) (hlen : 4 + n.toNat ≤ s.rxLen) :
    Inv (acceptFrame { s with fChannel := channel, fCommand := 0#8, fLen := n }) where
  size := by simpa using h.size
  rxbuf := by simpa using h.rxbuf
  outbuf := by simpa [State.outbufSize] using h.outbuf
  hsBuf := by simpa using h.hsBuf
  handshake := handshakeOk_of_ready h.handshake hready (by simp) (by simp) (by simp) (by simp) (by simp)
  reception := by simpa [receptionOk] using h.reception
  fletcher := by simpa using h.fletcher
  accepted := fun _ => by
    have hchannel' : channel = 0#8 ∨ channel = s.cfgChannel := by tauto
    simp [acceptedOk, warn3_eq_decide, hchannel', hlen]
  sending := by simp

theorem inv_decodeDatagram {s : State} (h : Inv s) (channel command : Byte) (n : Half) :
    Inv (decodeDatagram channel command n s) := by
  by_cases hl : s.loop = .decode
  · have hready : s.hs = .ready := ready_of_busy h (by simp [hl])
    rcases decodeDatagram_cases channel command n s hl with
      ⟨-, e⟩ | ⟨-, -, e⟩ | ⟨-, -, -, e⟩ | ⟨-, -, -, -, e⟩ | ⟨-, -, -, -, -, e⟩ | ⟨-, hchannel, rfl, -, hlen, e⟩ <;>
      rw [e]
    case inr.inr.inr.inr.inr => exact inv_acceptFrame h hready hchannel hlen
    all_goals exact inv_raiseError h hready _ _ _ _
  · rwa [decodeDatagram_disabled hl]

theorem keepsInv_decodeTurn {s : State} (h : Inv s) (hl : s.loop = .decode) : KeepsInv (decodeTurn s) := by
  unfold decodeTurn
  split
  · exact keepsInv_next (inv_raiseError h (ready_of_busy h (by simp [hl])) _ _ _ _)
  · next h4 =>
    obtain ⟨channel, command, n, hfetch⟩ := fetchHeader_total h.reception (by omega)
    rw [hfetch, withAccess_ok, exec_opc (opcFields_decodeOpc channel command n)]
    exact keepsInv_next (inv_decodeDatagram h channel command n)

/-! ### ENCODE -/

/-- The accepted payload is held in `RXBUF` (R76). -/
theorem payload_total {s : State} (h : Inv s) (ha : acceptedOk s) :
    ∃ p, s.payload = .ok p ∧ p.length = s.fLen.toNat := by
  obtain ⟨hlen, hwritten⟩ := h.reception
  obtain ⟨-, -, hpayload, -⟩ := ha
  obtain ⟨p, hp⟩ := loadBytes_total .rxbuf s.rxbufSize s.rxbuf 4 s.fLen.toNat (by omega) fun i hi =>
    hwritten (4 + i) (by omega)
  exact ⟨p, hp, loadBytes_length hp⟩

/-- `OUTBUF` has room for the frame of an accepted payload (R68, R89). -/
theorem frameOf_length_le_outbufSize {s : State} (h : Inv s) (ha : acceptedOk s) {p : List Byte}
    (hp : s.payload = .ok p) (pr : Protocol) : (frameOf pr p).length ≤ s.outbufSize := by
  have hlength := loadBytes_length hp
  obtain ⟨hlen, -⟩ := h.reception
  obtain ⟨-, -, hpayload, -⟩ := ha
  have := pspec_lengths_le pr
  have := s.fLen.isLt
  rw [frameOf_length, le_outbufSize_iff]
  omega

/-- With the frame of the accepted payload laid out in `OUTBUF` the block may enter `SEND`. -/
theorem inv_enterSend {s : State} (h : Inv s) (hl : s.loop = .encode) {pr : Protocol}
    (hpr : protocolOf s.cfgProtocol = some pr) {p : List Byte} (hp : s.payload = .ok p) {length : Nat}
    (hlength : length = (frameOf pr p).length) (adaCnt : Half) (adaCk : Byte) {fl1 fl2 : Byte}
    (hfletcher : fl1.toNat ≤ 254 ∧ fl2.toNat ≤ 254) :
    Inv (enterSend length
      { s with
        adaCnt := adaCnt, adaCk := adaCk, fl1 := fl1, fl2 := fl2
        outbuf := s.outbuf.writeBytes 0 (frameOf pr p) }) where
  size := h.size
  rxbuf := h.rxbuf
  outbuf := bufferOk_writeBytes h.outbuf (by
    rw [Nat.zero_add]
    exact frameOf_length_le_outbufSize h (h.accepted (.inl hl)) hp pr)
  hsBuf := h.hsBuf
  handshake := handshakeOk_of_ready h.handshake (ready_of_busy h (by simp [hl])) rfl rfl rfl rfl rfl
  reception := h.reception
  fletcher := hfletcher
  accepted := fun _ => h.accepted (.inl hl)
  sending := fun _ => by
    have hle : (frameOf pr p).length ≤ 65543 :=
      ((le_outbufSize_iff s).1 (frameOf_length_le_outbufSize h (h.accepted (.inl hl)) hp pr)).2
    have hpos : 0 < (frameOf pr p).length := by cases pr <;> simp [frameOf, headerOf]
    have houtLen : (BitVec.ofNat 17 length).toNat = (frameOf pr p).length := by
      rw [BitVec.toNat_ofNat, hlength]
      omega
    refine ⟨pr, p, s.tx, hpr, hp, houtLen, ?_, fun i hi => ?_, (List.append_nil s.tx).symm⟩
    · rw [enterSend_outLen, houtLen]
      exact hpos
    · rw [enterSend_outLen, houtLen] at hi
      rw [enterSend_outbuf, Mem.read_writeBytes, if_pos ⟨Nat.zero_le i, by omega⟩, Nat.sub_zero]

theorem keepsInv_execEncAdalight {s : State} (h : Inv s) (hl : s.loop = .encode) (hpsel : s.cfgProtocol = 0#2) :
    KeepsInv (execEncAdalight s) := by
  have ha := h.accepted (.inl hl)
  obtain ⟨p, hp, hlength⟩ := payload_total h ha
  have hroom := frameOf_length_le_outbufSize h ha hp .adalight
  rw [frameOf_adalight_length] at hroom
  rw [execEncAdalight_eq hl hp hroom, adalightFrame_eq hlength, ← hlength, ← frameOf_adalight_length]
  exact keepsInv_next (inv_enterSend h hl (by rw [hpsel]; rfl) hp rfl _ _ h.fletcher)

theorem keepsInv_execEncAwa {s : State} (h : Inv s) (hl : s.loop = .encode) (hpsel : s.cfgProtocol = 1#2) :
    KeepsInv (execEncAwa s) := by
  have ha := h.accepted (.inl hl)
  obtain ⟨p, hp, hlength⟩ := payload_total h ha
  have hroom := frameOf_length_le_outbufSize h ha hp .awa
  rw [frameOf_awa_length] at hroom
  rw [execEncAwa_eq hl hp hroom, awaFrame_eq hlength, ← hlength, ← frameOf_awa_length]
  exact keepsInv_next (inv_enterSend h hl (by rw [hpsel]; rfl) hp rfl _ _ (fletcher16_le p))

theorem keepsInv_execEncTpm2 {s : State} (h : Inv s) (hl : s.loop = .encode) (hpsel : s.cfgProtocol = 2#2) :
    KeepsInv (execEncTpm2 s) := by
  have ha := h.accepted (.inl hl)
  obtain ⟨p, hp, hlength⟩ := payload_total h ha
  have hroom := frameOf_length_le_outbufSize h ha hp .tpm2
  rw [frameOf_tpm2_length] at hroom
  rw [execEncTpm2_eq hl hp hroom, tpm2Frame_eq hlength, ← hlength, ← frameOf_tpm2_length]
  exact keepsInv_next (inv_enterSend h hl (by rw [hpsel]; rfl) hp rfl s.adaCnt s.adaCk h.fletcher)

/-- A `PSEL` value that is not the reserved one selects an encoder (R85). -/
theorem psel_of_ne_reserved : ∀ {p : BitVec 2}, p ≠ 3#2 → p = 0#2 ∨ p = 1#2 ∨ p = 2#2 := by
  decide

theorem keepsInv_encodeTurn {s : State} (h : Inv s) (hl : s.loop = .encode) : KeepsInv (encodeTurn s) := by
  obtain ⟨hreserved, -⟩ := (handshakeOk_ready (ready_of_busy h (by simp [hl]))).1 h.handshake
  rw [encodeTurn, if_neg hreserved, fetchPsel_eq, withAccess_ok]
  rcases psel_of_ne_reserved hreserved with hpsel | hpsel | hpsel <;> rw [hpsel]
  · exact keepsInv_execEncAdalight h hl hpsel
  · exact keepsInv_execEncAwa h hl hpsel
  · exact keepsInv_execEncTpm2 h hl hpsel

theorem keepsInv_blockTurn {s : State} (h : Inv s) : KeepsInv (blockTurn s) := by
  unfold blockTurn
  split
  · next hl => exact keepsInv_decodeTurn h hl
  · next hl => exact keepsInv_encodeTurn h hl
  all_goals exact keepsInv_next h

/-! ### Transmission -/

/-- In `SEND` the whole frame lies inside `OUTBUF` and is written, and `TX_PTR` points into it (R68). -/
theorem sending_readable {s : State} (h : Inv s) (hl : s.loop = .send) :
    s.txPtr.toNat < s.outLen.toNat ∧ s.outLen.toNat ≤ s.outbufSize ∧
      ∀ i < s.outLen.toNat, ∃ b, s.outbuf.read i = some b := by
  obtain ⟨pr, p, before, -, hp, houtLen, hptr, hframe, -⟩ := h.sending hl
  refine ⟨hptr, houtLen ▸ frameOf_length_le_outbufSize h (h.accepted (.inr hl)) hp pr, fun i hi => ?_⟩
  rw [hframe i hi]
  exact ⟨_, List.getElem?_eq_getElem (houtLen ▸ hi)⟩

/-- The byte at `TX_PTR` sent, `TX` ends with one byte more of the frame, or the frame is out and the block at rest (R199). -/
theorem inv_sendByte {s : State} (h : Inv s) (hl : s.loop = .send) {b : Byte}
    (hb : s.outbuf.read s.txPtr.toNat = some b) : Inv (sendByte b s) := by
  have hhandshake {t : State} := handshakeOk_of_ready (t := t) h.handshake (ready_of_busy h (by simp [hl]))
  obtain ⟨pr, p, before, hpr, hp, houtLen, hptr, hframe, htx⟩ := h.sending hl
  rw [sendByte_send hl]
  split
  · exact ⟨h.size, h.rxbuf, h.outbuf, h.hsBuf, hhandshake rfl rfl rfl rfl rfl, h.reception, h.fletcher, nofun, nofun⟩
  · next hmore =>
    rw [txPtr_succ_eq_iff hptr] at hmore
    refine ⟨h.size, h.rxbuf, h.outbuf, h.hsBuf, hhandshake rfl rfl rfl rfl rfl, h.reception, h.fletcher,
      fun _ => h.accepted (.inr hl), fun _ => ⟨pr, p, before, hpr, hp, houtLen, ?_, hframe, ?_⟩⟩
    · show (s.txPtr + 1).toNat < s.outLen.toNat
      rw [txPtr_succ hptr]
      omega
    · show s.tx ++ [b] = before ++ (frameOf pr p).take (s.txPtr + 1).toNat
      have hnext : (frameOf pr p)[s.txPtr.toNat]? = some b := (hframe _ hptr).symm.trans hb
      rw [txPtr_succ hptr, htx, List.take_add_one, hnext, Option.toList_some, List.append_assoc]

theorem keepsInv_txBeat {s : State} (h : Inv s) : KeepsInv (txBeat s) := by
  by_cases hl : s.loop = .send
  · obtain ⟨hptr, hsize, hread⟩ := sending_readable h hl
    obtain ⟨b, hb⟩ := hread _ hptr
    rw [txBeat_send hl (hptr.trans_le hsize) hb]
    exact keepsInv_next (inv_sendByte h hl hb)
  · rw [txBeat_disabled hl]
    exact keepsInv_next h

theorem keepsInv_txBeats (k : Nat) {s : State} (h : Inv s) : KeepsInv (txBeats k s) := by
  induction k generalizing s with
  | zero => exact keepsInv_next h
  | succ k ih => exact (keepsInv_txBeat h).andThen fun _ => ih

/-- A header or footer stands at `TX_PTR` only where it ends inside the frame (R67). -/
theorem emittedFormat_fits {s : State} (h : Inv s) (hl : s.loop = .send) {k : Nat} {f : Format}
    (hf : emittedFormat k s = some f) : s.txPtr.toNat + k ≤ s.outLen.toNat := by
  obtain ⟨pr, p, before, hpr, hp, houtLen, -⟩ := h.sending hl
  rw [frameOf_length, loadBytes_length hp] at houtLen
  simp only [emittedFormat, hpr] at hf
  split_ifs at hf with hheader hfooter
  · obtain ⟨hptr, rfl⟩ := hheader
    rw [hptr, houtLen]
    show 0 + _ ≤ _
    omega
  · obtain ⟨hptr, rfl⟩ := hfooter
    omega

theorem emittedFormat_of_fetchEmitted {k : Nat} {s : State} {i : Instr} (h : fetchEmitted k s = some i) :
    ∃ f, emittedFormat k s = some f := by
  unfold fetchEmitted at h
  split at h
  · cases h
  · exact ⟨_, by assumption⟩

/-- Taking a whole header or footer is taking its bytes one by one (log 6). -/
theorem txStep_eq_txBeats {s : State} (h : Inv s) (k : Nat) : txStep k s = txBeats k s := by
  by_cases hl : s.loop = .send
  · rw [txStep, if_pos hl]
    cases hfetch : fetchEmitted k s with
    | none => rfl
    | some i =>
      obtain ⟨w, hload, a, _, hword, rfl⟩ := fetchEmitted_eq_some hfetch
      obtain ⟨f, hf⟩ := emittedFormat_of_fetchEmitted hfetch
      obtain ⟨hlength, hread⟩ := (loadBytes_ok_iff ..).1 hload
      subst hlength
      obtain ⟨-, hsize, -⟩ := sending_readable h hl
      show exec i s = txBeats _ s
      rw [exec_emitted hword, emitWord_send hl]
      exact (txBeats_eq_sendBytes _ s hl (emittedFormat_fits h hl hf) hsize fun j hj => (hread j hj).2).symm
  · rw [txStep, if_neg hl, txBeats_disabled hl]

theorem keepsInv_txStep (k : Nat) {s : State} (h : Inv s) : KeepsInv (txStep k s) := by
  rw [txStep_eq_txBeats h]
  exact keepsInv_txBeats k h

/-! ### The step -/

/-- One clock edge: the serial byte, the tick, then at most one operation of the control loop (R204). -/
theorem keepsInv_clockEdge {s : State} (h : Inv s) (p : PortIn) (done : Bool) : KeepsInv (clockEdge p done s) := by
  have hbyte : KeepsInv (if p.srxValid then hsRxByte p.srxData s else .next s) := by
    split
    · exact keepsInv_hsRxByte h p.srxData
    · exact keepsInv_next h
  refine hbyte.andThen fun s1 h1 => ?_
  have htick : Inv (if p.tickMs then hsTick s1 else s1) := by
    split
    · exact inv_hsTick h1
    · exact h1
  generalize (if p.tickMs then hsTick s1 else s1) = s2 at htick
  have hturn : KeepsInv (if done then blockTurn s2 else .next s2) := by
    split
    · exact keepsInv_blockTurn htick
    · exact keepsInv_next htick
  have hbeat (taken : Bool) : Inv (if taken then rxBeat p.dgData p.dgKeep p.dgLast s2 else s2) := by
    split
    · exact inv_rxBeat htick _ _ _
    · exact htick
  have hsend : KeepsInv (if p.txReady then txBeat s2 else .next s2) := by
    split
    · exact keepsInv_txBeat htick
    · exact keepsInv_next htick
  cases s.loop with
  | idle | recv => exact keepsInv_next (hbeat _)
  | decode | encode => exact hturn
  | send => exact hsend

/-- Every stimulus, at either level. -/
theorem keepsInv_applyStimulus {s : State} (h : Inv s) (e : Stimulus) : KeepsInv (applyStimulus e s) := by
  cases e with
  | turn => exact keepsInv_blockTurn h
  | reset st => exact keepsInv_resetStimulus h st
  | setStraps st => exact keepsInv_next (inv_withStraps h st)
  | datagram d => exact keepsInv_next (inv_rxDatagram h d)
  | rxBeat b keep last => exact keepsInv_next (inv_rxBeat h b keep last)
  | srx b => exact keepsInv_hsRxByte h b
  | timeout => exact keepsInv_next (inv_hsTimeout_self h)
  | tick => exact keepsInv_next (inv_hsTick h)
  | txBeat => exact keepsInv_txBeat h
  | txStep k => exact keepsInv_txStep k h
  | txRun => exact keepsInv_txBeats _ h
  | cycle p done =>
    rw [applyStimulus, clockCycle]
    split
    · exact keepsInv_resetStimulus h p.straps
    · exact keepsInv_clockEdge (inv_withStraps h p.straps) p done

/-- Progress and preservation in one: a step lowers the pulses, takes its stimulus off the script and applies it. -/
theorem keepsInv_step {s : State} (h : Inv s) : KeepsInv (step s) :=
  keepsInv_applyStimulus (inv_beginStep h) (nextStimulus s)

/-- Settles O52: the only answer of a step is the one that keeps the invariant. -/
theorem stepKeepsTheInvariant : Obligations.StepKeepsTheInvariant := by
  intro s t h ht
  obtain ⟨u, hu, hinv⟩ := keepsInv_step h
  rw [ht] at hu
  cases hu
  exact hinv

/-- Settles O53: such an answer exists for every stimulus. -/
theorem noStepStops : Obligations.NoStepStops := by
  intro s h
  obtain ⟨t, ht, -⟩ := keepsInv_step h
  exact ⟨t, ht⟩

end Sys2Proof.Proofs.Memory

/-! The statements of `30_encoding.md` and of the closed forms that rest on it: decoder and encoder undo each other (section 4), the
`OPC_HDR` rows are their masks (section 3), and the header, the frame length and the emitted words (R89, R90). -/

namespace Sys2Proof.Proofs.Encoding

open Sys2Proof Sys2Proof.Machine Sys2Proof.Safety Sys2Proof.Proofs.Frames

/-! ### The `OPC_HDR` rows

`opcFields` gives the header a row stands for; the decoder and the encoder are the two directions of that relation. -/

/-- The decoder reads a row exactly from the header the row stands for. -/
theorem decodeOpc_eq_iff {channel command : Byte} {n : Half} {i : Instr} :
    decodeOpc channel command n = i ↔ opcFields i = some (channel, command, n) := by
  refine ⟨fun h => h ▸ opcFields_decodeOpc channel command n, fun h => ?_⟩
  cases i with
  | opcSetPixelColors | opcUnsupported0 => cases h; rfl
  | opcUnsupported1 _ low => cases h; rw [← unsupportedCommand1_eq, decodeOpc_unsupportedCommand1]
  | opcUnsupported2 _ low => cases h; rw [← unsupportedCommand2_eq, decodeOpc_unsupportedCommand2]
  | opcUnsupported3 _ low => cases h; rw [← unsupportedCommand3_eq, decodeOpc_unsupportedCommand3]
  | opcUnsupported4 _ low => cases h; rw [← unsupportedCommand4_eq, decodeOpc_unsupportedCommand4]
  | opcUnsupported5 _ low => cases h; rw [← unsupportedCommand5_eq, decodeOpc_unsupportedCommand5]
  | opcUnsupported6 _ low => cases h; rw [← unsupportedCommand6_eq, decodeOpc_unsupportedCommand6]
  | opcUnsupported7 _ low => cases h; rw [← unsupportedCommand7_eq, decodeOpc_unsupportedCommand7]
  | _ => cases h

/-- The command byte that `encode` gives an `OPC.UNSUPPORTED.k` row, as the number `opcFields` gives it (R82). -/
theorem unsupportedCommand_eq {k : Nat} (low : BitVec k) :
    unsupportedCommand low = BitVec.ofNat 8 (2 ^ k + low.toNat) := by
  apply BitVec.eq_of_toNat_eq
  rw [unsupportedCommand, BitVec.toNat_setWidth, BitVec.toNat_append, ← Nat.shiftLeft_add_eq_or_of_lt low.isLt,
    Nat.shiftLeft_eq, BitVec.toNat_ofNat, BitVec.toNat_ofNat, Nat.one_mod, Nat.one_mul]

/-- The word of a row is the header it stands for. -/
theorem word_of_opcFields {i : Instr} {channel command : Byte} {n : Half}
    (h : opcFields i = some (channel, command, n)) :
    i.format = .opcHdr ∧ encode i = opcHeaderBytes channel command n := by
  cases i with
  | opcSetPixelColors | opcUnsupported0 => cases h; exact ⟨rfl, rfl⟩
  | opcUnsupported1 _ low | opcUnsupported2 _ low | opcUnsupported3 _ low | opcUnsupported4 _ low | opcUnsupported5 _ low
  | opcUnsupported6 _ low | opcUnsupported7 _ low =>
    cases h
    exact ⟨rfl, congrArg (opcHeaderBytes channel · n) (unsupportedCommand_eq low)⟩
  | _ => cases h

/-- The four header bytes, whatever follows them, are read as the row they stand for. -/
theorem decode_encode_opc {i : Instr} {channel command : Byte} {n : Half}
    (h : opcFields i = some (channel, command, n)) (rest : List Byte) :
    decode i.format (encode i ++ rest) = .ok (i, rest) := by
  obtain ⟨hformat, hword⟩ := word_of_opcFields h
  rw [hformat, hword]
  show Except.ok (decodeOpc channel command (be16 (hiByte n) (loByte n)), rest) = _
  rw [be16_hiByte_loByte, decodeOpc_eq_iff.2 h]

/-- The header the decoder reads is the word of what it answers (R81). -/
theorem word_decodeOpc (channel command h l : Byte) :
    (decodeOpc channel command (be16 h l)).format = .opcHdr ∧
      encode (decodeOpc channel command (be16 h l)) = [channel, command, h, l] := by
  obtain ⟨hformat, hword⟩ := word_of_opcFields (opcFields_decodeOpc channel command (be16 h l))
  rw [opcHeaderBytes, hiByte_be16, loByte_be16] at hword
  exact ⟨hformat, hword⟩

/-! ### The other formats -/

/-- The byte `decodePsel` reads is the word of what it answers (R85). -/
theorem word_decodePsel {b : Byte} {i : Instr} (h : decodePsel b = some i) : i.format = .psel ∧ encode i = [b] := by
  unfold decodePsel at h
  split_ifs at h with h0 h1 h2 h3 <;> cases h
  · exact ⟨rfl, by rw [h0]; rfl⟩
  · exact ⟨rfl, by rw [h1]; rfl⟩
  · exact ⟨rfl, by rw [h2]; rfl⟩
  · exact ⟨rfl, by rw [h3]; rfl⟩

/-- Both handshake rows have the four bytes compared as their word (R92, R174). -/
theorem word_decodeHs (b0 b1 b2 b3 : Byte) :
    (decodeHs b0 b1 b2 b3).format = .hsMagic ∧ encode (decodeHs b0 b1 b2 b3) = [b0, b1, b2, b3] := by
  unfold decodeHs
  split
  · next hmagic =>
    obtain ⟨rfl, rfl, rfl, rfl⟩ := hmagic
    exact ⟨rfl, rfl⟩
  · exact ⟨rfl, rfl⟩

/-- Any handshake word but the magic is a mismatch (R174). -/
theorem decodeHs_of_notMagic {b0 b1 b2 b3 : Byte} (h : Instr.notMagic b0 b1 b2 b3 = true) :
    decodeHs b0 b1 b2 b3 = .hsMismatch b0 b1 b2 b3 := by
  refine if_neg ?_
  rintro ⟨rfl, rfl, rfl, rfl⟩
  cases h

/-- The six bytes of an Adalight or AWA header from the count field's two bytes (R86, R87). -/
theorem adaHeaderBytes_be16 (magic1 h l k : Byte) :
    adaHeaderBytes magic1 (be16 h l) k = [0x41#8, magic1, 0x61#8, h, l, k] := by
  rw [adaHeaderBytes, hiByte_be16, loByte_be16]

/-- The four bytes of a TPM2 header from the length's two bytes (R88). -/
theorem tpm2HeaderBytes_be16 (h l : Byte) : tpm2HeaderBytes (be16 h l) = [0xC9#8, 0xDA#8, h, l] := by
  rw [tpm2HeaderBytes, hiByte_be16, loByte_be16]

/-! ### The round trips -/

/-- Settles O1, by the rows of the opcode table; only the mismatch needs that the term is well formed. -/
theorem decodeGivesBackEncoded : Obligations.DecodeGivesBackEncoded := by
  intro i rest hwf
  cases i with
  | opcSetPixelColors | opcUnsupported0 | opcUnsupported1 | opcUnsupported2 | opcUnsupported3 | opcUnsupported4
  | opcUnsupported5 | opcUnsupported6 | opcUnsupported7 => exact decode_encode_opc rfl rest
  | encAdalight | encAwa | encTpm2 | pselReserved | hsMagic | txAwaFtr | txTpm2Ftr => rfl
  | hsMismatch b0 b1 b2 b3 =>
    show Except.ok (decodeHs b0 b1 b2 b3, rest) = _
    rw [decodeHs_of_notMagic hwf]
  | txAdalightHdr c k =>
    show Except.ok (Instr.txAdalightHdr (be16 (hiByte c) (loByte c)) k, rest) = _
    rw [be16_hiByte_loByte]
  | txAwaHdr c k =>
    show Except.ok (Instr.txAwaHdr (be16 (hiByte c) (loByte c)) k, rest) = _
    rw [be16_hiByte_loByte]
  | txTpm2Hdr n =>
    show Except.ok (Instr.txTpm2Hdr (be16 (hiByte n) (loByte n)), rest) = _
    rw [be16_hiByte_loByte]

/-- A branch of the decoder that answers `i` and the bytes left gives the input back, where `i` has the word `w` it read. -/
theorem decoded_gives_back {f : Format} {w left : List Byte} {i : Instr} (hi : i.format = f ∧ encode i = w)
    {j : Instr} {rest : List Byte} (hok : (Except.ok (i, left) : Except Reject (Instr × List Byte)) = .ok (j, rest)) :
    j.format = f ∧ encode j ++ rest = w ++ left := by
  cases hok
  obtain ⟨hformat, hword⟩ := hi
  exact ⟨hformat, by rw [hword]⟩

/-- Settles O2, by the branches of the decoder: those that refuse answer nothing, and in each of the others the word read is the one
the answer encodes to. -/
theorem encodeGivesBackDecoded : Obligations.EncodeGivesBackDecoded := by
  intro f bytes rest i
  fun_cases decode f bytes with
  | case1 channel command h l _ => exact decoded_gives_back (word_decodeOpc channel command h l)
  | case3 b _ _ hpsel => exact decoded_gives_back (word_decodePsel hpsel)
  | case6 b0 b1 b2 b3 => exact decoded_gives_back (word_decodeHs b0 b1 b2 b3)
  | case8 _ _ _ h l k _ hconst =>
    obtain ⟨rfl, rfl, rfl⟩ := hconst
    exact decoded_gives_back (i := .txAdalightHdr (be16 h l) k) ⟨rfl, adaHeaderBytes_be16 0x64#8 h l k⟩
  | case11 _ _ _ h l k _ hconst =>
    obtain ⟨rfl, rfl, rfl⟩ := hconst
    exact decoded_gives_back (i := .txAwaHdr (be16 h l) k) ⟨rfl, adaHeaderBytes_be16 0x77#8 h l k⟩
  | case14 => exact decoded_gives_back ⟨rfl, rfl⟩
  | case16 _ _ h l _ hconst =>
    obtain ⟨rfl, rfl⟩ := hconst
    exact decoded_gives_back (i := .txTpm2Hdr (be16 h l)) ⟨rfl, tpm2HeaderBytes_be16 h l⟩
  | case19 => exact decoded_gives_back ⟨rfl, rfl⟩
  | _ => exact nofun

/-- Settles O4: each word is the encoding of its instruction, which O1 reads back. -/
theorem writtenWordsDecode : Obligations.WrittenWordsDecode :=
  ⟨decodeGivesBackEncoded (.opcSetPixelColors 0x00 0x0006) [] rfl,
    decodeGivesBackEncoded (.opcUnsupported0 0x02 0x03FC) [] rfl,
    decodeGivesBackEncoded (.opcUnsupported7 0x00 0x7F 0x0000) [] rfl,
    decodeGivesBackEncoded .encTpm2 [] rfl,
    decodeGivesBackEncoded .hsMagic [] rfl,
    decodeGivesBackEncoded (.hsMismatch 0x41 0x64 0x61 0x58) [] rfl,
    decodeGivesBackEncoded (.txAdalightHdr 0x0001 0x54) [] rfl,
    decodeGivesBackEncoded (.txTpm2Hdr 0x0300) [] rfl⟩

/-! ### The masks of the opcode table -/

/-- A mask on byte 1 of the 32-bit word tests the command byte alone. -/
theorem maskedWord_eq_iff (channel command h l mask value : Byte) :
    ((channel ++ command ++ h ++ l : BitVec 32) &&& (0#8 ++ mask ++ 0#8 ++ 0#8 : BitVec 32) =
      (0#8 ++ value ++ 0#8 ++ 0#8 : BitVec 32)) ↔ command &&& mask = value := by
  have hword : (channel ++ command ++ h ++ l) &&& (0#8 ++ mask ++ 0#8 ++ 0#8) =
      0#8 ++ (command &&& mask) ++ 0#8 ++ 0#8 := by
    simp only [BitVec.and_append, BitVec.and_zero]
  exact hword ▸ ((BitVec.append_left_inj _).trans (BitVec.append_left_inj _)).trans (BitVec.append_right_inj _)

/-- The mask of the bits from `k` up leaves bit `k` alone exactly when it is the byte's most significant set bit (R82). -/
theorem and_mask_eq_iff {k : Nat} (hk : k ≤ 7) (command : Byte) :
    command &&& (255#8 <<< k) = 1#8 <<< k ↔ command.toNat / 2 ^ k = 1 := by
  have hpow : 2 ^ k ≤ 128 := Nat.pow_le_pow_right (by decide) hk
  have hdiv : command.toNat / 2 ^ k * 2 ^ k ≤ command.toNat := Nat.div_mul_le_self command.toNat (2 ^ k)
  have hlt : command.toNat < 256 := command.isLt
  have hmasked : (command &&& (255#8 <<< k)).toNat = command.toNat / 2 ^ k * 2 ^ k := by
    rw [show 255#8 = BitVec.allOnes 8 from rfl, ← BitVec.shiftLeft_ushiftRight, BitVec.toNat_shiftLeft,
      BitVec.toNat_ushiftRight, Nat.shiftLeft_eq, Nat.shiftRight_eq_div_pow, Nat.mod_eq_of_lt (by omega)]
  have hmatch : (1#8 <<< k).toNat = 2 ^ k := by
    rw [BitVec.toNat_shiftLeft, BitVec.toNat_ofNat, Nat.shiftLeft_eq, Nat.one_mul, Nat.mod_eq_of_lt (by omega)]
  rw [← BitVec.toNat_inj, hmasked, hmatch, Nat.mul_eq_right (Nat.two_pow_pos k).ne']

/-- The command bytes whose most significant set bit is bit `k` are those with any `k` bits below it (R82). -/
theorem exists_low_iff {k : Nat} (hk : k ≤ 7) (command : Byte) :
    (∃ low : BitVec k, BitVec.ofNat 8 (2 ^ k + low.toNat) = command) ↔ command.toNat / 2 ^ k = 1 := by
  have hpow : 2 ^ k ≤ 128 := Nat.pow_le_pow_right (by decide) hk
  have hpos : 0 < 2 ^ k := Nat.two_pow_pos k
  rw [Nat.div_eq_iff hpos]
  constructor
  · rintro ⟨low, rfl⟩
    have := low.isLt
    rw [BitVec.toNat_ofNat]
    omega
  · intro h
    refine ⟨BitVec.ofNat k (command.toNat - 2 ^ k), BitVec.eq_of_toNat_eq ?_⟩
    have := command.isLt
    rw [BitVec.toNat_ofNat, BitVec.toNat_ofNat, Nat.mod_eq_of_lt (a := command.toNat - 2 ^ k) (by omega)]
    omega

/-- The row `OPC.UNSUPPORTED.k` is the headers that its mask and match select. -/
theorem maskedWord_eq_iff_row {k : Nat} (hk : k ≤ 7) (channel command h l : Byte) {n : Half} {row : BitVec k → Instr}
    (hrow : ∀ low, opcFields (row low) = some (channel, BitVec.ofNat 8 (2 ^ k + low.toNat), n)) :
    ((channel ++ command ++ h ++ l : BitVec 32) &&& (0#8 ++ 255#8 <<< k ++ 0#8 ++ 0#8 : BitVec 32) =
      (0#8 ++ 1#8 <<< k ++ 0#8 ++ 0#8 : BitVec 32)) ↔ ∃ low, decodeOpc channel command n = row low := by
  rw [maskedWord_eq_iff, and_mask_eq_iff hk, ← exists_low_iff hk]
  simp only [decodeOpc_eq_iff, hrow, Option.some.injEq, Prod.mk.injEq, and_true, true_and]

/-- A row whose command byte is fixed is the headers with that command byte. -/
theorem maskedWord_eq_iff_fixed (channel command h l value : Byte) {n : Half} {i : Instr}
    (hi : opcFields i = some (channel, value, n)) :
    ((channel ++ command ++ h ++ l : BitVec 32) &&& (0#8 ++ 0xFF#8 ++ 0#8 ++ 0#8 : BitVec 32) =
      (0#8 ++ value ++ 0#8 ++ 0#8 : BitVec 32)) ↔ decodeOpc channel command n = i := by
  rw [maskedWord_eq_iff, show 0xFF#8 = BitVec.allOnes 8 from rfl, BitVec.and_allOnes, decodeOpc_eq_iff, hi]
  simp only [Option.some.injEq, Prod.mk.injEq, and_true, true_and, eq_comm]

/-- Settles O3: each mask tests the command byte for its most significant set bit, which is how the decoder chooses the row. -/
theorem opcRowsMatchTheirMask : Obligations.OpcRowsMatchTheirMask := by
  intro channel command h l
  exact ⟨rfl,
    maskedWord_eq_iff_fixed channel command h l 0x00 rfl,
    maskedWord_eq_iff_fixed channel command h l 0x01 rfl,
    maskedWord_eq_iff_row (k := 1) (by decide) channel command h l fun _ => rfl,
    maskedWord_eq_iff_row (k := 2) (by decide) channel command h l fun _ => rfl,
    maskedWord_eq_iff_row (k := 3) (by decide) channel command h l fun _ => rfl,
    maskedWord_eq_iff_row (k := 4) (by decide) channel command h l fun _ => rfl,
    maskedWord_eq_iff_row (k := 5) (by decide) channel command h l fun _ => rfl,
    maskedWord_eq_iff_row (k := 6) (by decide) channel command h l fun _ => rfl,
    maskedWord_eq_iff_row (k := 7) (by decide) channel command h l fun _ => rfl⟩

/-! ### The header and the length of a frame -/

/-- Settles O20: the header is the closed form of `adaHeaderBytes_eq`, and the count field `(n div 3 - 1) mod 2^16` wraps below 3
bytes only. -/
theorem countFieldAndChecksumOfLength : Obligations.CountFieldAndChecksumOfLength := by
  intro n magic1
  have hcount := countField_toNat n
  have hlt := n.isLt
  rw [countOf] at hcount
  refine ⟨adaHeaderBytes_eq magic1 n, fun _ => ?_, fun _ => BitVec.eq_of_toNat_eq ?_⟩
  · omega
  · rw [hcount, BitVec.toNat_ofNat]
    omega

/-- An encoder's frame that was laid out ends in `enterSend`, which writes its length to `OUT_LEN`; the 17 bits hold it (R35). -/
theorem outLen_of_layFrame {header payload footer : List Byte} {s t : State} {k : Nat} {n : Half} (hk : k ≤ 8)
    (h : layFrame header payload footer s (fun u => .next (enterSend (k + n.toNat) u)) = .next t) :
    t.outLen.toNat = k + n.toNat := by
  have hn := n.isLt
  obtain ⟨-, hsend⟩ := layFrame_eq_next h
  cases hsend
  rw [enterSend_outLen, BitVec.toNat_ofNat]
  omega

theorem execEncAdalight_outLen {s t : State} (hl : s.loop = .encode) (h : execEncAdalight s = .next t) :
    t.outLen.toNat = 6 + s.fLen.toNat := by
  rw [execEncAdalight, if_neg (not_not.2 hl)] at h
  obtain ⟨p, -, hlaid⟩ := withAccess_eq_next h
  exact outLen_of_layFrame (by decide) hlaid

theorem execEncAwa_outLen {s t : State} (hl : s.loop = .encode) (h : execEncAwa s = .next t) :
    t.outLen.toNat = 8 + s.fLen.toNat := by
  rw [execEncAwa, if_neg (not_not.2 hl)] at h
  obtain ⟨p, -, hlaid⟩ := withAccess_eq_next h
  exact outLen_of_layFrame (by decide) hlaid

theorem execEncTpm2_outLen {s t : State} (hl : s.loop = .encode) (h : execEncTpm2 s = .next t) :
    t.outLen.toNat = 5 + s.fLen.toNat := by
  rw [execEncTpm2, if_neg (not_not.2 hl)] at h
  obtain ⟨p, -, hlaid⟩ := withAccess_eq_next h
  exact outLen_of_layFrame (by decide) hlaid

/-- Settles O24, by the encoder. -/
theorem outLenIsFrameLength : Obligations.OutLenIsFrameLength := by
  intro s t i p hl hi h
  have hn := s.fLen.isLt
  obtain ⟨rfl, rfl⟩ | ⟨rfl, rfl⟩ | ⟨rfl, rfl⟩ := hi
  · have hlen := execEncAdalight_outLen hl h
    exact ⟨hlen, hlen, by omega, by omega⟩
  · have hlen := execEncAwa_outLen hl h
    exact ⟨hlen.trans (Nat.add_right_comm 6 2 _), hlen, by omega, by omega⟩
  · have hlen := execEncTpm2_outLen hl h
    exact ⟨hlen.trans (Nat.add_right_comm 4 1 _), hlen, by omega, by omega⟩

/-! ### Emitted words -/

/-- Settles O26: the word fits, so it is written at its place, and a read finds it there and nowhere else. -/
theorem emittedWordIsLaidOut : Obligations.EmittedWordIsLaidOut := by
  intro s i a w hi hl hfits
  refine ⟨{ s with outbuf := s.outbuf.writeBytes a w }, ?_, rfl, fun j => Mem.read_writeBytes s.outbuf a w j⟩
  rw [exec_emitted hi, emitWord_encode hl, layOut_eq hfits]

end Sys2Proof.Proofs.Encoding

/-! The statements of `40_opc_decode.md`. What an `OPC_HDR` instruction does to the state is a function of one verdict (R101, R223), so
each statement is a fact about `verdictOf`, read through `exec_opc_decided`. -/

namespace Sys2Proof.Proofs.Decode

open Sys2Proof Sys2Proof.Machine Sys2Proof.Safety

/-! ### The verdict -/

section Verdict

variable {size len : Nat} {filter channel command : Byte} {n : Nat}

/-- When a header earns the verdict: its own check fails and every check before it passes (R101, R223). -/
def Earns (size len : Nat) (filter channel command : Byte) (n : Nat) : ErrCode → Prop
  | .tooShort => len < 4
  | .channelMismatch => 4 ≤ len ∧ channel ≠ 0#8 ∧ channel ≠ filter
  | .unsupportedCommand => 4 ≤ len ∧ (channel = 0#8 ∨ channel = filter) ∧ command ≠ 0#8
  | .payloadTooLarge => 4 ≤ len ∧ (channel = 0#8 ∨ channel = filter) ∧ command = 0#8 ∧ size < 4 + n
  | .truncatedPayload =>
    4 ≤ len ∧ (channel = 0#8 ∨ channel = filter) ∧ command = 0#8 ∧ 4 + n ≤ size ∧ len < 4 + n
  | .ok => 4 ≤ len ∧ (channel = 0#8 ∨ channel = filter) ∧ command = 0#8 ∧ 4 + n ≤ size ∧ 4 + n ≤ len

/-- A channel that is not foreign is 0 or the filter (R103). -/
theorem not_foreign_iff : ¬ (channel ≠ 0#8 ∧ channel ≠ filter) ↔ channel = 0#8 ∨ channel = filter := by
  tauto

/-- No header earns two verdicts, and the one it earns is `verdictOf`. -/
theorem verdictOf_eq_iff {e : ErrCode} :
    verdictOf size len filter channel command n = e ↔ Earns size len filter channel command n e := by
  constructor
  · rintro rfl
    unfold verdictOf
    split_ifs with hshort hforeign hcommand hsize hlen
    · exact hshort
    all_goals rw [not_lt] at hshort
    · exact ⟨hshort, hforeign⟩
    all_goals rw [not_foreign_iff] at hforeign
    · exact ⟨hshort, hforeign, hcommand⟩
    all_goals rw [not_not] at hcommand
    · exact ⟨hshort, hforeign, hcommand, hsize⟩
    all_goals rw [not_lt] at hsize
    · exact ⟨hshort, hforeign, hcommand, hsize, hlen⟩
    · exact ⟨hshort, hforeign, hcommand, hsize, not_lt.1 hlen⟩
  · intro h
    cases e with
    | tooShort => exact if_pos h
    | channelMismatch =>
      obtain ⟨hlen, hforeign⟩ := h
      rw [verdictOf, if_neg (not_lt.2 hlen), if_pos hforeign]
    | unsupportedCommand =>
      obtain ⟨hlen, hchannel, hcommand⟩ := h
      rw [verdictOf, if_neg (not_lt.2 hlen), if_neg (not_foreign_iff.2 hchannel), if_pos hcommand]
    | payloadTooLarge =>
      obtain ⟨hlen, hchannel, rfl, hsize⟩ := h
      rw [verdictOf, if_neg (not_lt.2 hlen), if_neg (not_foreign_iff.2 hchannel), if_neg (not_not.2 rfl), if_pos hsize]
    | truncatedPayload =>
      obtain ⟨hlen, hchannel, rfl, hsize, htrunc⟩ := h
      rw [verdictOf, if_neg (not_lt.2 hlen), if_neg (not_foreign_iff.2 hchannel), if_neg (not_not.2 rfl),
        if_neg (not_lt.2 hsize), if_pos htrunc]
    | ok =>
      obtain ⟨hlen, hchannel, rfl, hsize, hfull⟩ := h
      rw [verdictOf, if_neg (not_lt.2 hlen), if_neg (not_foreign_iff.2 hchannel), if_neg (not_not.2 rfl),
        if_neg (not_lt.2 hsize), if_neg (not_lt.2 hfull)]

end Verdict

/-! ### The state a verdict leaves -/

/-- The frame registers a verdict leaves written (R221, last column). -/
def withHeader (channel command : Byte) (n : Half) (s : State) : ErrCode → State
  | .tooShort => s
  | .channelMismatch => { s with fChannel := channel }
  | .unsupportedCommand => { s with fChannel := channel, fCommand := command }
  | .payloadTooLarge | .truncatedPayload | .ok => { s with fChannel := channel, fCommand := command, fLen := n }

/-- The state after `DECODE` gave this verdict: the frame accepted (R108) or the datagram dropped (R224). -/
def decided (verdict : ErrCode) (channel command : Byte) (n : Half) (s : State) : State :=
  if verdict = .ok then acceptFrame (withHeader channel command n s .ok)
  else dropped verdict (withHeader channel command n s verdict)

theorem decided_of_ne_ok {verdict : ErrCode} (h : verdict ≠ .ok) (channel command : Byte) (n : Half) (s : State) :
    decided verdict channel command n s = dropped verdict (withHeader channel command n s verdict) :=
  if_neg h

/-- What `raise` leaves is a dropped datagram (R224). -/
theorem raiseError_eq_dropped (e : ErrCode) (s : State) : raiseError e s = dropped e s := rfl

/-- `DECODE` is its verdict. -/
theorem decodeDatagram_eq_decided (channel command : Byte) (n : Half) {s : State} (h : s.loop = .decode) :
    decodeDatagram channel command n s =
      decided (verdictOf s.rxbufSize s.rxLen s.cfgChannel channel command n.toNat) channel command n s := by
  rcases decodeDatagram_cases channel command n s h with
    ⟨hlen, e⟩ | ⟨hlen, hforeign, e⟩ | ⟨hlen, hchannel, hcommand, e⟩ | ⟨hlen, hchannel, hcommand, hsize, e⟩ |
    ⟨hlen, hchannel, hcommand, hsize, htrunc, e⟩ | ⟨hlen, hchannel, hcommand, hsize, hfull, e⟩ <;> rw [e]
  · rw [verdictOf_eq_iff (e := .tooShort).2 hlen]
    rfl
  · rw [verdictOf_eq_iff (e := .channelMismatch).2 ⟨hlen, hforeign⟩]
    rfl
  all_goals rw [not_foreign_iff] at hchannel
  · rw [verdictOf_eq_iff (e := .unsupportedCommand).2 ⟨hlen, hchannel, hcommand⟩]
    rfl
  · rw [verdictOf_eq_iff (e := .payloadTooLarge).2 ⟨hlen, hchannel, hcommand, hsize⟩]
    rfl
  · rw [verdictOf_eq_iff (e := .truncatedPayload).2 ⟨hlen, hchannel, hcommand, hsize, htrunc⟩]
    rfl
  · rw [verdictOf_eq_iff (e := .ok).2 ⟨hlen, hchannel, hcommand, hsize, hfull⟩]
    rfl

section Decided

variable (verdict : ErrCode) (channel command : Byte) (n : Half) (s : State)

@[simp] theorem withHeader_hs : (withHeader channel command n s verdict).hs = s.hs := by
  cases verdict <;> rfl

@[simp] theorem withHeader_script : (withHeader channel command n s verdict).script = s.script := by
  cases verdict <;> rfl

@[simp] theorem withHeader_tx : (withHeader channel command n s verdict).tx = s.tx := by
  cases verdict <;> rfl

@[simp] theorem withHeader_events : (withHeader channel command n s verdict).events = s.events := by
  cases verdict <;> rfl

@[simp] theorem decided_statusErr : (decided verdict channel command n s).statusErr = verdict := by
  unfold decided
  split
  · next hok => rw [acceptFrame_statusErr, hok]
  · rfl

@[simp] theorem decided_loop :
    (decided verdict channel command n s).loop = if verdict = .ok then .encode else .idle := by
  unfold decided
  split
  · exact acceptFrame_loop _
  · rfl

/-- The events of a verdict: one accept, with the warning behind it for a length that is no multiple of 3 (R109), or one drop. -/
@[simp] theorem decided_events :
    (decided verdict channel command n s).events = s.events ++
      (if verdict = .ok then (if n.toNat % 3 = 0 then [.accept] else [.accept, .warn]) else [.drop verdict]) := by
  unfold decided
  split
  · rw [acceptFrame_events]
    simp [withHeader, Memory.warn3_eq_decide]
  · simp [dropped]

end Decided

/-! ### The `OPC_HDR` instructions -/

section Exec

variable {i : Instr} {channel command : Byte} {n : Half} {s t : State}

/-- Every `OPC_HDR` instruction in `DECODE` leaves the state of its verdict. -/
theorem exec_opc_decided (hi : opcFields i = some (channel, command, n)) (hl : s.loop = .decode) :
    exec i s = .next
      (decided (verdictOf s.rxbufSize s.rxLen s.cfgChannel channel command n.toNat) channel command n s) := by
  rw [exec_opc hi, decodeDatagram_eq_decided channel command n hl]

/-- An `OPC_HDR` instruction whose header earns an error is dropped with it. -/
theorem exec_opc_dropped {e : ErrCode} (hi : opcFields i = some (channel, command, n)) (hl : s.loop = .decode)
    (he : Earns s.rxbufSize s.rxLen s.cfgChannel channel command n.toNat e) (hne : e ≠ .ok) :
    exec i s = .next (dropped e (withHeader channel command n s e)) := by
  rw [exec_opc_decided hi hl, verdictOf_eq_iff.2 he, decided_of_ne_ok hne]

/-- The verdict stands in `STATUS.ERR`, and `LOOP` says whether it is OK. -/
theorem verdict_of_exec_opc (hi : opcFields i = some (channel, command, n)) (hl : s.loop = .decode)
    (h : exec i s = .next t) :
    t.statusErr = verdictOf s.rxbufSize s.rxLen s.cfgChannel channel command n.toNat ∧
      t.loop = if t.statusErr = .ok then .encode else .idle := by
  rw [exec_opc_decided hi hl] at h
  cases h
  rw [decided_statusErr, decided_loop]
  exact ⟨rfl, rfl⟩

/-- `STATUS.ERR` holds an error exactly when the header earns it. -/
theorem statusErr_of_exec_opc_iff {e : ErrCode} (hi : opcFields i = some (channel, command, n)) (hl : s.loop = .decode)
    (h : exec i s = .next t) :
    t.statusErr = e ↔ Earns s.rxbufSize s.rxLen s.cfgChannel channel command n.toNat e := by
  obtain ⟨herr, -⟩ := verdict_of_exec_opc hi hl h
  rw [herr, verdictOf_eq_iff]

end Exec

/-! ### The statements -/

/-- Settles O7: the turn tests `RX_LEN` before it reads a byte, and for the instructions it is the first check. -/
theorem shortDatagramIsTooShort : Obligations.ShortDatagramIsTooShort := by
  intro s hl hlen
  refine ⟨?turn, fun i channel command n hi => exec_opc_dropped hi hl (e := .tooShort) hlen nofun⟩
  case turn =>
    have hturn : blockTurn s = decodeTurn s := by rw [blockTurn, hl]
    rw [hturn, decodeTurn, if_pos hlen, raiseError_eq_dropped]

/-- Settles O8. -/
theorem foreignChannelIsDropped : Obligations.ForeignChannelIsDropped := by
  intro s i channel command n hi hl hlen
  refine ⟨fun hforeign => exec_opc_dropped hi hl (e := .channelMismatch) ⟨hlen, hforeign⟩ nofun, fun t ht => ?_⟩
  exact (statusErr_of_exec_opc_iff hi hl ht).trans (and_iff_right hlen)

/-- No `OPC.UNSUPPORTED.k` row stands for the command 0 (R82). -/
theorem unsupportedRow_ne_zero {k : Nat} (hk : k ≤ 7) (low : BitVec k) : BitVec.ofNat 8 (2 ^ k + low.toNat) ≠ 0#8 := by
  intro h
  have hdiv := (Encoding.exists_low_iff hk 0#8).1 ⟨low, h⟩
  rw [BitVec.toNat_ofNat, Nat.zero_mod, Nat.zero_div] at hdiv
  cases hdiv

/-- Settles O9: each row's command is not 0, so behind the channel check its header earns this error. -/
theorem unsupportedCommandIsDropped : Obligations.UnsupportedCommandIsDropped := by
  intro s channel n hl hlen hchannel
  have hrow {i : Instr} {command : Byte} (hi : opcFields i = some (channel, command, n)) (hcommand : command ≠ 0#8) :
      exec i s = .next (dropped .unsupportedCommand { s with fChannel := channel, fCommand := command }) :=
    exec_opc_dropped hi hl (e := .unsupportedCommand) ⟨hlen, hchannel, hcommand⟩ nofun
  refine ⟨hrow rfl (by decide),
    fun low => hrow rfl (unsupportedRow_ne_zero (k := 1) (by decide) low),
    fun low => hrow rfl (unsupportedRow_ne_zero (k := 2) (by decide) low),
    fun low => hrow rfl (unsupportedRow_ne_zero (k := 3) (by decide) low),
    fun low => hrow rfl (unsupportedRow_ne_zero (k := 4) (by decide) low),
    fun low => hrow rfl (unsupportedRow_ne_zero (k := 5) (by decide) low),
    fun low => hrow rfl (unsupportedRow_ne_zero (k := 6) (by decide) low),
    fun low => hrow rfl (unsupportedRow_ne_zero (k := 7) (by decide) low),
    fun i channel command n t hi ht => ?_⟩
  exact (statusErr_of_exec_opc_iff hi hl ht).trans (and_iff_right hlen)

/-- An accepted frame as one equation of states (R108, R109). -/
theorem acceptFrame_eq (s : State) :
    acceptFrame s =
      { s with
        statusErr := .ok
        statusWarn3 := decide (s.fLen.toNat % 3 ≠ 0)
        loop := .encode
        events := s.events ++ (if s.fLen.toNat % 3 = 0 then [.accept] else [.accept, .warn])
        pulses :=
          { s.pulses with
            accept := true
            warn := s.pulses.warn || decide (s.fLen.toNat % 3 ≠ 0) } } := by
  unfold acceptFrame
  by_cases h : s.fLen.toNat % 3 = 0 <;> simp [Memory.warn3_eq_decide, State.signal, h]

/-- Settles O10: the header earns OK, and `acceptFrame_eq` is the state. -/
theorem setPixelColorsIsAccepted : Obligations.SetPixelColorsIsAccepted := by
  intro s channel n hl hchannel hsize hlen
  have hok : Earns s.rxbufSize s.rxLen s.cfgChannel channel 0x00#8 n.toNat .ok :=
    ⟨by omega, hchannel, rfl, hsize, hlen⟩
  rw [exec_opc_decided rfl hl, verdictOf_eq_iff.2 hok, decided, if_pos rfl, acceptFrame_eq]
  rfl

/-- Settles O11: the third clause is that a 16-bit length and its header never exceed 65539. -/
theorem oversizedPayloadIsDropped : Obligations.OversizedPayloadIsDropped := by
  intro s channel n hl hlen hchannel
  refine ⟨?drops, ?exactly, ?never⟩
  case drops =>
    exact fun hsize => exec_opc_dropped rfl hl (e := .payloadTooLarge) ⟨hlen, hchannel, rfl, hsize⟩ nofun
  case exactly =>
    intro t ht
    rw [statusErr_of_exec_opc_iff rfl hl ht]
    exact ⟨fun ⟨_, _, _, hsize⟩ => hsize, fun hsize => ⟨hlen, hchannel, rfl, hsize⟩⟩
  case never =>
    intro i channel command n t hbig hi ht herr
    obtain ⟨-, -, -, hsize⟩ := (statusErr_of_exec_opc_iff hi hl ht).1 herr
    have hn := n.isLt
    omega

/-- Settles O12. -/
theorem truncatedPayloadIsDropped : Obligations.TruncatedPayloadIsDropped := by
  intro s channel n hl hlen hchannel hsize
  refine ⟨?drops, ?exactly⟩
  case drops =>
    exact fun htrunc => exec_opc_dropped rfl hl (e := .truncatedPayload) ⟨hlen, hchannel, rfl, hsize, htrunc⟩ nofun
  case exactly =>
    intro t ht
    rw [statusErr_of_exec_opc_iff rfl hl ht]
    exact ⟨fun ⟨_, _, _, _, htrunc⟩ => htrunc, fun htrunc => ⟨hlen, hchannel, rfl, hsize, htrunc⟩⟩

/-- Settles O13: the state of a verdict, register by register. -/
theorem everyHeaderHasOneVerdict : Obligations.EveryHeaderHasOneVerdict := by
  intro s i channel command n hi hl
  exact ⟨_, exec_opc_decided hi hl, decided_statusErr .., decided_loop .., decided_events ..⟩

/-- Settles O14: the write set is that of `decodeDatagram_frame`, and the verdict reads nothing but the four things. -/
theorem decodeIsPure : Obligations.DecodeIsPure := by
  intro s i channel command n hi
  refine ⟨?writes, ?depends⟩
  case writes =>
    intro t ht
    rw [exec_opc hi] at ht
    cases ht
    have hframe := decodeDatagram_frame channel command n s
    refine ⟨hframe, fun a => ?_⟩
    simp only at hframe
    rw [hframe]
    exact ⟨rfl, rfl, rfl⟩
  case depends =>
    intro s' t t' hl hl' hlen hfilter hsize ht ht'
    obtain ⟨herr, hloop⟩ := verdict_of_exec_opc hi hl ht
    obtain ⟨herr', hloop'⟩ := verdict_of_exec_opc hi hl' ht'
    have hsame : t'.statusErr = t.statusErr := by rw [herr', herr, hlen, hfilter, hsize]
    exact ⟨hsame, by rw [hloop', hloop, hsame]⟩

end Sys2Proof.Proofs.Decode

/-! The statement of `46_control_loop.md` section 1: one iteration of the loop, a datagram in and its frame out. The four steps are run
one after the other: the datagram is delivered, `DECODE` gives its verdict, and then either the block rests or the frame is encoded and
sent. -/

namespace Sys2Proof.Proofs.Iteration

open Sys2Proof Sys2Proof.Machine Sys2Proof.Safety Sys2Proof.Proofs.Frames Sys2Proof.Proofs.Decode

/-! ### The verdict on a datagram -/

/-- What a header earns does not depend on the bytes cut off at `RXBUF_SIZE` (R194). -/
theorem earns_cut_iff {size : Nat} (hsize : 4 ≤ size) (len : Nat) (filter channel command : Byte) (n : Nat) (e : ErrCode) :
    Earns size (min len size) filter channel command n e ↔ Earns size len filter channel command n e := by
  have hheader : 4 ≤ min len size ↔ 4 ≤ len := by omega
  have hshort : min len size < 4 ↔ len < 4 := by omega
  have htrunc : (4 + n ≤ size ∧ min len size < 4 + n) ↔ 4 + n ≤ size ∧ len < 4 + n := by omega
  have hfull : (4 + n ≤ size ∧ 4 + n ≤ min len size) ↔ 4 + n ≤ size ∧ 4 + n ≤ len := by omega
  cases e <;> simp only [Earns, hheader, hshort, htrunc, hfull]

theorem verdictOf_cut {size : Nat} (hsize : 4 ≤ size) (len : Nat) (filter channel command : Byte) (n : Nat) :
    verdictOf size (min len size) filter channel command n = verdictOf size len filter channel command n :=
  verdictOf_eq_iff.2 ((earns_cut_iff hsize ..).2 (verdictOf_eq_iff.1 rfl))

theorem datagramFrame_short {d : List Byte} (h : d.length < 4) (size : Nat) (filter : Byte) (pr : Protocol) :
    datagramFrame size filter pr d = .error .tooShort := by
  match d, h with
  | [], _ | [_], _ | [_, _], _ | [_, _, _], _ => rfl

/-- A datagram with a header becomes the frame of its payload, or the error of its verdict. -/
theorem datagramFrame_header (size : Nat) (filter : Byte) (pr : Protocol) (channel command h l : Byte) (rest : List Byte) :
    let verdict := verdictOf size (rest.length + 4) filter channel command (be16 h l).toNat
    datagramFrame size filter pr (channel :: command :: h :: l :: rest) =
      if verdict = .ok then .ok (frameOf pr (rest.take (be16 h l).toNat)) else .error verdict := by
  have hlong : ¬ rest.length + 4 < 4 := by omega
  simp only [datagramFrame, verdictOf, be16_toNat, List.length_cons, if_neg hlong]
  split_ifs <;> trivial

/-! ### Steps from a script -/

/-- A step whose stimulus is answered leaves the run to the rest of the script. -/
theorem run_of_script {s t : State} {e : Stimulus} {script : List Stimulus} (k : Nat) (hs : s.script = e :: script)
    (h : applyStimulus e { s with script := script, pulses := Pulses.none } = .next t) :
    core.run (k + 1) s = core.run k t := by
  refine run_of_next core k s t ?_
  show applyStimulus (s.script.headD .turn) { s with script := s.script.tail, pulses := Pulses.none } = .next t
  rw [hs]
  exact h

/-- The last step of a run. -/
theorem run_one_of_script {s t : State} {e : Stimulus} {script : List Stimulus} (hs : s.script = e :: script)
    (h : applyStimulus e { s with script := script, pulses := Pulses.none } = .next t) : core.run 1 s = .next t :=
  run_of_script 0 hs h

/-! ### Delivery and `DECODE` -/

/-- The datagram as `RX_DATAGRAM` delivers it to `DECODE` (R191). -/
def delivered (d : List Byte) (script : List Stimulus) (s : State) : State :=
  { s with
    rxLen := min d.length s.rxbufSize
    rxbuf := s.rxbuf.writeBytes 0 (d.take s.rxbufSize)
    loop := .decode
    script := script
    pulses := Pulses.none }

/-- The first two steps are the delivery and the turn that decodes. -/
theorem run_delivered {s t : State} {d : List Byte} {script : List Stimulus} (k : Nat) (hready : s.hs = .ready)
    (hidle : s.loop = .idle) (hs : s.script = .datagram d :: .turn :: script)
    (h : blockTurn (delivered d script s) = .next t) : core.run (k + 2) s = core.run k t := by
  have hdeliver : applyStimulus (.datagram d) { s with script := .turn :: script, pulses := Pulses.none } =
      .next (delivered d (.turn :: script) s) :=
    congrArg Host.Outcome.next
      (rxDatagram_enabled (s := { s with script := .turn :: script, pulses := Pulses.none }) hready hidle d)
  rw [run_of_script (k + 1) hs hdeliver]
  exact run_of_script k rfl h

/-- A delivered datagram is read back from `RXBUF` up to the cut. -/
theorem read_delivered {d : List Byte} {script : List Stimulus} {s : State} {i : Nat} (hi : i < d.length)
    (hsize : i < s.rxbufSize) : (delivered d script s).rxbuf.read i = d[i]? := by
  have hin : i < (d.take s.rxbufSize).length := by rw [List.length_take]; omega
  show (s.rxbuf.writeBytes 0 (d.take s.rxbufSize)).read i = d[i]?
  rw [Mem.read_writeBytes, if_pos ⟨Nat.zero_le i, by omega⟩, Nat.sub_zero, List.getElem?_take_of_lt hsize]

theorem blockTurn_delivered_short {d : List Byte} (script : List Stimulus) (s : State) (h : d.length < 4) :
    blockTurn (delivered d script s) = .next (dropped .tooShort (delivered d script s)) :=
  (shortDatagramIsTooShort _ rfl (lt_of_le_of_lt (min_le_left ..) h)).1

/-- The turn decodes the header that was delivered, and its verdict is the one on the datagram before the cut. -/
theorem blockTurn_delivered_header {s : State} (hsize : 4 ≤ s.rxbufSize) (channel command h l : Byte) (rest : List Byte)
    (script : List Stimulus) :
    let r := delivered (channel :: command :: h :: l :: rest) script s
    blockTurn r =
      .next (decided (verdictOf s.rxbufSize (rest.length + 4) s.cfgChannel channel command (be16 h l).toNat)
        channel command (be16 h l) r) := by
  intro r
  have hlen : r.rxLen = min (rest.length + 4) s.rxbufSize := rfl
  have hload : loadBytes .rxbuf r.rxbufSize r.rxbuf 0 4 = .ok [channel, command, h, l] := by
    refine (loadBytes_ok_iff ..).2 ⟨rfl, fun i hi => ?_⟩
    rw [Nat.zero_add, read_delivered (by simp only [List.length_cons]; omega) (by omega)]
    refine ⟨by show i < s.rxbufSize; omega, ?_⟩
    match i, hi with
    | 0, _ | 1, _ | 2, _ | 3, _ => rfl
  have hfetch : fetchHeader r = .ok (decodeOpc channel command (be16 h l)) := by
    simp only [fetchHeader, hload, decodeWord, decode]
  have hturn : blockTurn r = decodeTurn r := rfl
  rw [hturn, decodeTurn, if_neg (by omega), hfetch, withAccess_ok, exec_opc_decided (opcFields_decodeOpc ..) rfl, hlen]
  exact congrArg (fun v => Host.Outcome.next (decided v channel command (be16 h l) r)) (verdictOf_cut hsize ..)

/-- The payload of a delivered datagram that is held whole. -/
theorem payload_delivered {s : State} {channel command h l : Byte} {rest : List Byte} {n : Half}
    (hsize : 4 + n.toNat ≤ s.rxbufSize) (hlen : 4 + n.toNat ≤ rest.length + 4) (script : List Stimulus) :
    loadBytes .rxbuf s.rxbufSize (delivered (channel :: command :: h :: l :: rest) script s).rxbuf 4 n.toNat =
      .ok (rest.take n.toNat) := by
  refine (loadBytes_ok_iff ..).2 ⟨by rw [List.length_take]; omega, fun i hi => ⟨by omega, ?_⟩⟩
  rw [read_delivered (by simp only [List.length_cons]; omega) (by omega), List.getElem?_take_of_lt hi, Nat.add_comm]
  rfl

/-! ### A block at rest -/

/-- A block at rest has neither an operation of its own nor a byte pending. -/
theorem run_turn_txRun_idle {s : State} {script : List Stimulus} (hidle : s.loop = .idle)
    (hs : s.script = .turn :: .txRun :: script) :
    core.run 2 s = .next { s with script := script, pulses := Pulses.none } := by
  have hturn : applyStimulus .turn { s with script := .txRun :: script, pulses := Pulses.none } =
      .next { s with script := .txRun :: script, pulses := Pulses.none } := by
    simp only [applyStimulus, blockTurn, hidle]
  rw [run_of_script 1 hs hturn]
  refine run_one_of_script rfl (txBeats_disabled ?_ _)
  show s.loop ≠ .send
  rw [hidle]
  decide

/-! ### `ENCODE` and the transmitter -/

/-- The encoder of a protocol (R85). -/
def encoderOf : Protocol → State → Out
  | .adalight => execEncAdalight
  | .awa => execEncAwa
  | .tpm2 => execEncTpm2

/-- The turn in `ENCODE` runs the encoder that `CFG.PROTOCOL` selects (R197). -/
theorem encodeTurn_eq_encoderOf {s : State} {pr : Protocol} (h : protocolOf s.cfgProtocol = some pr) :
    encodeTurn s = encoderOf pr s := by
  unfold protocolOf at h
  split_ifs at h with h0 h1 h2 <;> cases h
  · rw [encodeTurn, fetchPsel_eq, h0]
    rfl
  · rw [encodeTurn, fetchPsel_eq, h1]
    rfl
  · rw [encodeTurn, fetchPsel_eq, h2]
    rfl

/-- An encoder lays out the frame of the payload and enters `SEND`; of the registers it writes only the checksums depend on the
protocol. -/
theorem encoderOf_eq (pr : Protocol) {s : State} (hl : s.loop = .encode) {p : List Byte} (hp : s.payload = .ok p)
    (hroom : (frameOf pr p).length ≤ s.outbufSize) :
    ∃ adaCnt adaCk fl1 fl2, encoderOf pr s =
      .next (enterSend (frameOf pr p).length
        { s with
          adaCnt := adaCnt, adaCk := adaCk, fl1 := fl1, fl2 := fl2
          outbuf := s.outbuf.writeBytes 0 (frameOf pr p) }) := by
  have hlength : p.length = s.fLen.toNat := loadBytes_length hp
  cases pr with
  | adalight =>
    rw [frameOf_adalight_length] at hroom
    rw [frameOf_adalight_length, hlength, ← adalightFrame_eq hlength]
    exact ⟨_, _, s.fl1, s.fl2, execEncAdalight_eq hl hp hroom⟩
  | awa =>
    rw [frameOf_awa_length] at hroom
    rw [frameOf_awa_length, hlength, ← awaFrame_eq hlength]
    exact ⟨_, _, _, _, execEncAwa_eq hl hp hroom⟩
  | tpm2 =>
    rw [frameOf_tpm2_length] at hroom
    rw [frameOf_tpm2_length, hlength, ← tpm2Frame_eq hlength]
    exact ⟨s.adaCnt, s.adaCk, s.fl1, s.fl2, execEncTpm2_eq hl hp hroom⟩

/-- A transmitter that takes every byte gets the rest of the frame (R200, R206). -/
theorem txRun_eq {s : State} {rest : List Byte} (hl : s.loop = .send) (hptr : s.txPtr.toNat < s.outLen.toNat)
    (hsize : s.outLen.toNat ≤ s.outbufSize) (hrest : rest.length = s.outLen.toNat - s.txPtr.toNat)
    (hread : ∀ j < rest.length, s.outbuf.read (s.txPtr.toNat + j) = rest[j]?) :
    txRun s =
      .next
        { s with
          tx := s.tx ++ rest
          txPtr := s.outLen
          loop := .idle
          events := s.events ++ [.sent (s.tx.length + rest.length)]
          pulses := { s.pulses with sent := true } } := by
  have hend : s.txPtr.toNat + rest.length = s.outLen.toNat := by omega
  have hne : rest ≠ [] := by
    rw [← List.length_pos_iff]
    omega
  rw [txRun, ← hrest, txBeats_eq_sendBytes rest s hl hend.le hsize hread, sendBytes_send rest s hl hne hend.le,
    if_pos hend]

/-- A frame for a 16-bit length is not empty, fits the 17 bits of `OUT_LEN`, and is at most 8 bytes longer than its payload (R35, R89). -/
theorem frameOf_length_bounds (pr : Protocol) {p : List Byte} {n : Half} (h : p.length = n.toNat) :
    0 < (frameOf pr p).length ∧ (frameOf pr p).length ≤ 65543 ∧ (frameOf pr p).length ≤ 8 + p.length := by
  have hn := n.isLt
  have hconst := pspec_lengths_le pr
  have hpos : 0 < (pspec pr).headerLen := by cases pr <;> decide
  rw [frameOf_length]
  omega

/-- A transmitter that takes every byte of a frame just laid out gets that frame. -/
theorem txRun_enterSend {s : State} {frame : List Byte} (hpos : 0 < frame.length) (hlong : frame.length ≤ 65543)
    (hsize : frame.length ≤ s.outbufSize) :
    ∃ t, txRun (enterSend frame.length { s with outbuf := s.outbuf.writeBytes 0 frame }) = .next t ∧
      t.loop = .idle ∧ t.hs = s.hs ∧ t.script = s.script ∧ t.tx = s.tx ++ frame ∧ t.statusErr = s.statusErr ∧
      t.outLen.toNat = frame.length := by
  have houtLen : (BitVec.ofNat 17 frame.length).toNat = frame.length := by
    rw [BitVec.toNat_ofNat]
    omega
  refine ⟨_, txRun_eq (rest := frame) rfl ?_ ?_ ?_ fun j hj => ?_, rfl, rfl, rfl, rfl, rfl, houtLen⟩
  · rw [enterSend_outLen, houtLen]
    exact hpos
  · rw [enterSend_outLen, houtLen]
    exact hsize
  · rw [enterSend_outLen, houtLen]
    rfl
  · show (s.outbuf.writeBytes 0 frame).read (0 + j) = frame[j]?
    rw [Mem.read_writeBytes, if_pos ⟨Nat.zero_le _, by omega⟩, Nat.sub_zero, Nat.zero_add]

/-- From `ENCODE`, the turn and the transmitter put the frame of the payload on `TX`. -/
theorem run_turn_txRun_encode {s : State} {script : List Stimulus} (hl : s.loop = .encode)
    (hs : s.script = .turn :: .txRun :: script) {pr : Protocol} (hpr : protocolOf s.cfgProtocol = some pr)
    {p : List Byte} (hp : s.payload = .ok p) (hfits : 4 + p.length ≤ s.rxbufSize) :
    ∃ t, core.run 2 s = .next t ∧ t.loop = .idle ∧ t.hs = s.hs ∧ t.script = script ∧
      t.tx = s.tx ++ frameOf pr p ∧ t.statusErr = s.statusErr ∧ t.outLen.toNat = (frameOf pr p).length := by
  obtain ⟨hpos, hlong, hlength⟩ := frameOf_length_bounds pr (loadBytes_length hp)
  have hroom : (frameOf pr p).length ≤ s.outbufSize := (le_outbufSize_iff s).2 ⟨by omega, hlong⟩
  obtain ⟨adaCnt, adaCk, fl1, fl2, hencode⟩ :=
    encoderOf_eq pr (s := { s with script := .txRun :: script, pulses := Pulses.none }) hl hp hroom
  have hturn : applyStimulus .turn { s with script := .txRun :: script, pulses := Pulses.none } =
      encoderOf pr { s with script := .txRun :: script, pulses := Pulses.none } := by
    rw [← encodeTurn_eq_encoderOf (s := { s with script := .txRun :: script, pulses := Pulses.none }) hpr]
    simp only [applyStimulus, blockTurn, hl]
  obtain ⟨t, hsend, ht⟩ := txRun_enterSend
    (s := { s with script := script, pulses := Pulses.none, adaCnt := adaCnt, adaCk := adaCk, fl1 := fl1, fl2 := fl2 })
    hpos hlong hroom
  exact ⟨t, (run_of_script 1 hs (hturn.trans hencode)).trans (run_one_of_script rfl hsend), ht⟩

/-! ### The iteration -/

section Iteration

variable {s : State} {pr : Protocol} {d : List Byte} {script : List Stimulus}

/-- A datagram that `DECODE` drops leaves the block at rest, with nothing sent (R224). -/
theorem run_dropped (hready : s.hs = .ready) (hidle : s.loop = .idle)
    (hs : s.script = .datagram d :: .turn :: .turn :: .txRun :: script) {e : ErrCode} (channel command : Byte) (n : Half)
    (hturn : blockTurn (delivered d (.turn :: .txRun :: script) s) =
      .next (dropped e (withHeader channel command n (delivered d (.turn :: .txRun :: script) s) e))) :
    ∃ t : State, core.run 4 s = .next t ∧ t.loop = .idle ∧ t.hs = s.hs ∧ t.script = script ∧
      t.tx = s.tx ∧ t.statusErr = e ∧ t.events = s.events ++ [.drop e] := by
  refine ⟨_, (run_delivered 2 hready hidle hs hturn).trans (run_turn_txRun_idle rfl (withHeader_script ..)), rfl,
    withHeader_hs .., rfl, withHeader_tx .., rfl, ?_⟩
  exact congrArg (· ++ [Event.drop e]) (withHeader_events ..)

/-- A datagram that `DECODE` accepts is encoded and sent (R226). -/
theorem run_accepted (hready : s.hs = .ready) (hidle : s.loop = .idle)
    (hs : s.script = .datagram d :: .turn :: .turn :: .txRun :: script) (hpr : protocolOf s.cfgProtocol = some pr)
    {channel command : Byte} {n : Half} {p : List Byte}
    (hturn : blockTurn (delivered d (.turn :: .txRun :: script) s) =
      .next (decided .ok channel command n (delivered d (.turn :: .txRun :: script) s)))
    (hp : loadBytes .rxbuf s.rxbufSize (delivered d (.turn :: .txRun :: script) s).rxbuf 4 n.toNat = .ok p)
    (hfits : 4 + n.toNat ≤ s.rxbufSize) :
    ∃ t : State, core.run 4 s = .next t ∧ t.loop = .idle ∧ t.hs = s.hs ∧ t.script = script ∧
      t.tx = s.tx ++ frameOf pr p ∧ t.statusErr = .ok ∧ t.outLen.toNat = (frameOf pr p).length := by
  rw [decided, if_pos rfl, acceptFrame_eq] at hturn
  rw [← loadBytes_length hp] at hfits
  rw [run_delivered 2 hready hidle hs hturn]
  exact run_turn_txRun_encode rfl rfl (by exact hpr) (by exact hp) (by exact hfits)

end Iteration

/-- Settles O31: a datagram without a header is dropped by the turn itself, any other by the verdict on its header or not at all. -/
theorem iterationTranslatesDatagram : Obligations.IterationTranslatesDatagram := by
  intro s pr d script hsize hready hidle hpr hs
  rw [← hready]
  match d with
  | [] | [_] | [_, _] | [_, _, _] =>
    rw [datagramFrame_short (by simp)]
    exact run_dropped hready hidle hs 0 0 0 (blockTurn_delivered_short _ s (by simp))
  | channel :: command :: h :: l :: rest =>
    have hturn := blockTurn_delivered_header hsize channel command h l rest (.turn :: .txRun :: script)
    rw [datagramFrame_header]
    simp only at hturn
    by_cases hok : verdictOf s.rxbufSize (rest.length + 4) s.cfgChannel channel command (be16 h l).toNat = .ok
    · obtain ⟨-, -, -, hfits, hheld⟩ := verdictOf_eq_iff.1 hok
      rw [hok] at hturn
      rw [if_pos hok]
      exact run_accepted hready hidle hs hpr hturn (payload_delivered hfits hheld _) hfits
    · rw [decided_of_ne_ok hok] at hturn
      rw [if_neg hok]
      exact run_dropped hready hidle hs channel command (be16 h l) hturn

end Sys2Proof.Proofs.Iteration

/-! The statements of `41_checksum.md`: the header checksum (section 1) and the Fletcher sums (section 2), whose closed form and range stand
in `Proofs.Frames`. -/

namespace Sys2Proof.Proofs.Checksum

open Sys2Proof Sys2Proof.Machine Sys2Proof.Safety Sys2Proof.Proofs.Frames

/-! ### The Fletcher sums -/

/-- Settles O18. -/
theorem fletcherSumsStayBelow255 : Obligations.FletcherSumsStayBelow255 := fletcher16_le

/-- A number modulo 255 fits a byte unchanged. -/
theorem toNat_ofNat_mod_255 (n : Nat) : (BitVec.ofNat 8 (n % 255)).toNat = n % 255 := by
  rw [BitVec.toNat_ofNat]
  omega

/-- Settles O19: the closed form `fletcher16_eq` read as numbers, which lose nothing in a byte. -/
theorem fletcherIsTheWeightedSum : Obligations.FletcherIsTheWeightedSum := by
  intro p
  rw [fletcher16_eq]
  exact ⟨toNat_ofNat_mod_255 (byteSum p), toNat_ofNat_mod_255 (weightedSum p)⟩

/-! ### The header checksum -/

/-- The receiver takes both count bytes back out of the checksum, and the constant of R130 remains (R131). -/
theorem adaXor_xor_countBytes (c : Half) : adaXor c ^^^ hiByte c ^^^ loByte c = 0x55#8 := by
  calc adaXor c ^^^ hiByte c ^^^ loByte c
      = (hiByte c ^^^ hiByte c) ^^^ (loByte c ^^^ loByte c) ^^^ 0x55#8 := by rw [adaXor]; ac_rfl
    _ = 0x55#8 := by simp only [BitVec.xor_self, BitVec.zero_xor]

/-- Settles O17: the receiver's check by cancellation, R131's six values by R130's formula. -/
theorem headerChecksumPassesReceiverCheck : Obligations.HeaderChecksumPassesReceiverCheck :=
  ⟨adaXor_xor_countBytes, by decide⟩

end Sys2Proof.Proofs.Checksum

/-! The statement of `42_encode_adalight.md`. The meaning of `ENC.ADALIGHT` is the equation `execEncAdalight_eq`; what is left is that the
payload held in `RXBUF` is the one the encoder reads, that its frame fits `OUTBUF`, and that the header registers are the closed form's. -/

namespace Sys2Proof.Proofs.EncodeAdalight

open Sys2Proof Sys2Proof.Machine Sys2Proof.Safety Sys2Proof.Proofs.Frames

/-! ### What every encoder reads, and where it writes -/

/-- The encoder reads the bytes that `RXBUF` holds behind the header (R32, R76). -/
theorem payload_eq_ok_of_held {s : State} {p : List Byte} (hlength : p.length = s.fLen.toNat)
    (hfits : 4 + p.length ≤ s.rxbufSize) (hheld : ∀ j < p.length, s.rxbuf.read (4 + j) = p[j]?) :
    s.payload = .ok p :=
  (State.payload_ok_iff ..).2 ⟨hlength, fun j hj => ⟨by omega, hheld j (by omega)⟩⟩

/-- A payload that fits `RXBUF` leaves room for its frame in `OUTBUF`, whatever the protocol (R6, R89). -/
theorem frameOf_length_le_outbufSize_of_fits {s : State} {p : List Byte} (hlength : p.length = s.fLen.toNat)
    (hfits : 4 + p.length ≤ s.rxbufSize) (pr : Protocol) : (frameOf pr p).length ≤ s.outbufSize := by
  have hn := s.fLen.isLt
  have hconst := pspec_lengths_le pr
  rw [frameOf_length, le_outbufSize_iff]
  omega

/-- A frame laid out from index 0 is read back below its length, and `OUTBUF` is as before from there on. -/
theorem read_writeBytes_zero (m : Mem) (w : List Byte) (a : Nat) :
    (m.writeBytes 0 w).read a = if a < w.length then w[a]? else m.read a := by
  simp only [Mem.read_writeBytes, Nat.zero_le, true_and, Nat.zero_add, Nat.sub_zero]

/-! ### The header registers -/

/-- `ADA_CNT` in closed form (R90). -/
theorem countField_eq_ofNat (n : Half) : countField n = BitVec.ofNat 16 (countOf n.toNat) := by
  rw [← countField_toNat, BitVec.ofNat_toNat, BitVec.setWidth_eq]

/-- `ADA_CK` is byte 5 of the header (R86, R87). -/
theorem adaXor_countField_eq (magic1 : Byte) (n : Half) :
    adaXor (countField n) = (headerOf magic1 n.toNat)[5]?.getD 0#8 := by
  rw [← adaHeaderBytes_eq]
  rfl

/-! ### The statement -/

/-- Settles O21: the encoder's own equation, with its registers and its frame in closed form. -/
theorem encAdalightLaysOutFrame : Obligations.EncAdalightLaysOutFrame := by
  intro s p hl hlength hfits hheld
  have hp := payload_eq_ok_of_held hlength hfits hheld
  have hroom := frameOf_length_le_outbufSize_of_fits hlength hfits .adalight
  rw [frameOf_adalight_length] at hroom
  refine ⟨_, execEncAdalight_eq hl hp hroom, ?_, fun a => ?_⟩
  · rw [hlength, ← countField_eq_ofNat, ← adaXor_countField_eq]
    rfl
  · rw [enterSend_outbuf, adalightFrame_eq hlength, read_writeBytes_zero, frameOf_adalight_length]

end Sys2Proof.Proofs.EncodeAdalight

/-! The statement of `43_encode_awa.md`. The meaning of `ENC.AWA` is the equation `execEncAwa_eq`; that the payload is read and its frame
fits is the same for every encoder (`Proofs.EncodeAdalight`), and the Fletcher sums are those of `fletcher16_eq`. -/

namespace Sys2Proof.Proofs.EncodeAwa

open Sys2Proof Sys2Proof.Machine Sys2Proof.Safety Sys2Proof.Proofs.Frames Sys2Proof.Proofs.EncodeAdalight

/-- Settles O22: the encoder's own equation, with its header registers, its two sums and its frame in closed form. -/
theorem encAwaLaysOutFrame : Obligations.EncAwaLaysOutFrame := by
  intro s p hl hlength hfits hheld
  have hp := payload_eq_ok_of_held hlength hfits hheld
  have hroom := frameOf_length_le_outbufSize_of_fits hlength hfits .awa
  rw [frameOf_awa_length] at hroom
  refine ⟨_, execEncAwa_eq hl hp hroom, ?_, fun a => ?_⟩
  · rw [hlength, ← countField_eq_ofNat, ← adaXor_countField_eq, fletcher16_eq]
    rfl
  · rw [enterSend_outbuf, awaFrame_eq hlength, read_writeBytes_zero, frameOf_awa_length]

end Sys2Proof.Proofs.EncodeAwa

/-! The statements of `44_encode_tpm2.md`. The frame of `ENC.TPM2` is the closed form (R162); that it keeps the datagram's bytes from index
2 on rests on two facts: the header's last two bytes are `F_LEN`, which are `RXBUF`'s bytes 2 and 3 (R81), and the payload stands at index 4
in both buffers (R32). -/

namespace Sys2Proof.Proofs.EncodeTpm2

open Sys2Proof Sys2Proof.Machine Sys2Proof.Safety Sys2Proof.Proofs.Frames Sys2Proof.Proofs.Encoding
  Sys2Proof.Proofs.EncodeAdalight

/-- Settles O23: the encoder's own equation, with its frame in closed form. -/
theorem encTpm2LaysOutFrame : Obligations.EncTpm2LaysOutFrame := by
  intro s p hl hlength hfits hheld
  have hp := payload_eq_ok_of_held hlength hfits hheld
  have hroom := frameOf_length_le_outbufSize_of_fits hlength hfits .tpm2
  rw [frameOf_tpm2_length] at hroom
  refine ⟨_, execEncTpm2_eq hl hp hroom, ?_, fun a => ?_⟩
  · rw [hlength]
    rfl
  · rw [enterSend_outbuf, tpm2Frame_eq hlength, read_writeBytes_zero, frameOf_tpm2_length]

/-- An encoder that completed found its payload, and laid out its frame (R162). -/
theorem execEncTpm2_eq_next {s t : State} (hl : s.loop = .encode) (h : execEncTpm2 s = .next t) :
    ∃ p, s.payload = .ok p ∧
      t = enterSend (5 + s.fLen.toNat)
        { s with outbuf := s.outbuf.writeBytes 0 (tpm2HeaderBytes s.fLen ++ p ++ [0x36#8]) } := by
  rw [execEncTpm2, if_neg (not_not.2 hl)] at h
  obtain ⟨p, hp, hlay⟩ := withAccess_eq_next h
  obtain ⟨-, hnext⟩ := layFrame_eq_next hlay
  cases hnext
  exact ⟨p, hp, rfl⟩

/-- Between the two bytes of the magic and the end marker, the frame's bytes are `RXBUF`'s at the same index. -/
theorem getElem?_tpm2Frame {s : State} {p : List Byte} {h l : Byte} (hhi : s.rxbuf.read 2 = some h)
    (hlo : s.rxbuf.read 3 = some l) (hp : s.payload = .ok p) {a : Nat} (h2 : 2 ≤ a) (ha : a < 4 + s.fLen.toNat) :
    ([0xC9#8, 0xDA#8, h, l] ++ p ++ [0x36#8])[a]? = s.rxbuf.read a := by
  obtain ⟨hlength, hpayload⟩ := (s.payload_ok_iff p).1 hp
  match a, h2 with
  | 2, _ => exact hhi.symm
  | 3, _ => exact hlo.symm
  | j + 4, _ =>
    have hj : j < s.fLen.toNat := by omega
    obtain ⟨-, hread⟩ := hpayload j hj
    calc ([0xC9#8, 0xDA#8, h, l] ++ p ++ [0x36#8])[j + 4]?
        = (p ++ [0x36#8])[j]? := rfl
      _ = p[j]? := List.getElem?_append_left (by omega)
      _ = s.rxbuf.read (j + 4) := by rw [← hread, Nat.add_comm]

/-- The end marker stands right behind the payload (R88). -/
theorem getElem?_tpm2Frame_end (h l : Byte) (p : List Byte) :
    ([0xC9#8, 0xDA#8, h, l] ++ p ++ [0x36#8])[4 + p.length]? = some 0x36#8 := by
  rw [Nat.add_comm]
  exact List.getElem?_concat_length

/-- Settles O25: the frame laid out, byte by byte along the cases of the statement. -/
theorem tpm2KeepsDatagramBytes : Obligations.Tpm2KeepsDatagramBytes := by
  intro s t h l hl hhi hlo hlen hexec a
  obtain ⟨p, hp, rfl⟩ := execEncTpm2_eq_next hl hexec
  have hlength : p.length = s.fLen.toNat := loadBytes_length hp
  have hheader : tpm2HeaderBytes s.fLen = [0xC9#8, 0xDA#8, h, l] := by rw [hlen, tpm2HeaderBytes_be16]
  have hframe : ([0xC9#8, 0xDA#8, h, l] ++ p ++ [0x36#8]).length = 5 + s.fLen.toNat := by
    simp only [List.length_append, List.length_cons, List.length_nil]
    omega
  rw [enterSend_outbuf, hheader, read_writeBytes_zero, hframe]
  split_ifs with hin h0 h1 hpayload hend
  any_goals omega
  · rw [h0]; rfl
  · rw [h1]; rfl
  · exact getElem?_tpm2Frame hhi hlo hp (by omega) hpayload
  · rw [hend, ← hlength, getElem?_tpm2Frame_end]
  · rfl

end Sys2Proof.Proofs.EncodeTpm2

/-! The statements of `45_handshake.md`: the handshake word and its bytes (section 2), the time-out and the tick (section 3), the
finality of the handshake state (section 1) and the failed session (section 4); and the stimuli that complete a word (R173, R233, R95). -/

namespace Sys2Proof.Proofs.Handshake

open Sys2Proof Sys2Proof.Machine Sys2Proof.Safety

/-! ### The handshake word -/

theorem exec_hsMagic_awaiting {s : State} (ha : s.hs = .awaiting) :
    exec .hsMagic s = .next { receiveHsWord 0x41#8 0x64#8 0x61#8 0x0A#8 s with hs := .ready } :=
  if_pos ha

theorem exec_hsMismatch_awaiting {s : State} (ha : s.hs = .awaiting) (b0 b1 b2 b3 : Byte) :
    exec (.hsMismatch b0 b1 b2 b3) s = .next (failHandshake .mismatch (receiveHsWord b0 b1 b2 b3 s)) :=
  if_pos ha

/-- A handshake word fills indices 0 to 3 of `HS_BUF` and no other (R27). -/
theorem read_receiveHsWord (b0 b1 b2 b3 : Byte) (s : State) (a : Nat) :
    (receiveHsWord b0 b1 b2 b3 s).hsBuf.read a = if a < 4 then [b0, b1, b2, b3][a]? else s.hsBuf.read a := by
  show (s.hsBuf.writeBytes 0 [b0, b1, b2, b3]).read a = _
  simp [Mem.read_writeBytes]

/-- Settles O36: each word by its equation while `AWAITING`, and neither does anything outside it. -/
theorem handshakeWordDecides : Obligations.HandshakeWordDecides := by
  intro s b0 b1 b2 b3
  refine ⟨fun ha => ⟨⟨_, exec_hsMagic_awaiting ha, rfl, ?magic, ?magicRest⟩,
    ⟨_, exec_hsMismatch_awaiting ha b0 b1 b2 b3, rfl, ?byte0, ?byte1, ?byte2, ?byte3, ?mismatchRest⟩⟩,
    fun ha => ⟨if_neg ha, if_neg ha⟩⟩
  case magic => exact Memory.holdsMagic_writeBytes s.hsBuf
  case byte0 | byte1 | byte2 | byte3 => exact read_receiveHsWord b0 b1 b2 b3 s _
  case magicRest | mismatchRest => exact fun a hbehind => (read_receiveHsWord _ _ _ _ s a).trans (if_neg (by omega))

/-! ### The serial byte -/

/-- What the word of the four handshake bytes leaves (R174): all four compared, and either way all four held. -/
theorem exec_decodeHs_awaiting {s : State} (ha : s.hs = .awaiting) (b0 b1 b2 b3 : Byte) :
    exec (decodeHs b0 b1 b2 b3) s =
      .next (if b0 = 0x41#8 ∧ b1 = 0x64#8 ∧ b2 = 0x61#8 ∧ b3 = 0x0A#8 then
        { receiveHsWord b0 b1 b2 b3 s with hs := .ready }
      else failHandshake .mismatch (receiveHsWord b0 b1 b2 b3 s)) := by
  unfold decodeHs
  split
  · next hmagic =>
    obtain ⟨rfl, rfl, rfl, rfl⟩ := hmagic
    exact exec_hsMagic_awaiting ha
  · exact exec_hsMismatch_awaiting ha b0 b1 b2 b3

/-- The word laid over the three bytes already held and the fourth changes no more than the fourth did. -/
theorem read_receiveHsWord_fourth {s : State} {b0 b1 b2 : Byte} (h0 : s.hsBuf.read 0 = some b0)
    (h1 : s.hsBuf.read 1 = some b1) (h2 : s.hsBuf.read 2 = some b2) (b : Byte) (a : Nat) :
    (receiveHsWord b0 b1 b2 b { s with hsBuf := s.hsBuf.write 3 b, hsCnt := 4#3 }).hsBuf.read a =
      if a = 3 then some b else s.hsBuf.read a := by
  rw [read_receiveHsWord]
  show (if a < 4 then _ else (s.hsBuf.write 3 b).read a) = _
  match a with
  | 0 => exact h0.symm
  | 1 => exact h1.symm
  | 2 => exact h2.symm
  | 3 => rfl
  | j + 4 => rw [if_neg (by omega), Mem.read_write]

/-- Settles O37: a byte before the fourth, the fourth with either verdict, and a byte outside `AWAITING`. -/
theorem serialByteIsHandshake : Obligations.SerialByteIsHandshake := by
  intro s b
  refine ⟨fun ha hearly => ?early, fun b0 b1 b2 ha hcnt h0 h1 h2 => ?fourth, fun ha => hsRxByte_disabled ha b⟩
  case early => exact ⟨_, Memory.hsRxByte_early b ha hearly, rfl, Mem.read_write s.hsBuf _ b⟩
  case fourth =>
    have hword := (Memory.hsRxByte_fourth b ha hcnt h0 h1 h2).trans (exec_decodeHs_awaiting (by exact ha) b0 b1 b2 b)
    have hbytes := read_receiveHsWord_fourth h0 h1 h2 b
    by_cases hmagic : b0 = 0x41#8 ∧ b1 = 0x64#8 ∧ b2 = 0x61#8 ∧ b = 0x0A#8
    · simp only [if_pos hmagic] at hword ⊢
      exact ⟨_, hword, rfl, hbytes, rfl, rfl⟩
    · simp only [if_neg hmagic] at hword ⊢
      exact ⟨_, hword, rfl, hbytes, rfl, rfl⟩

/-! ### The time-out and the tick -/

/-- The time-out's cause tells whether a byte had arrived (R176). -/
theorem hsTimeout_awaiting {s : State} (ha : s.hs = .awaiting) :
    hsTimeout s = failHandshake (if s.hsCnt = 0#3 then .timedOut else .shortRead) s :=
  if_pos ha

/-- A tick counts, and times out on the count it has just made (R177). -/
theorem hsTick_awaiting {s : State} (ha : s.hs = .awaiting) :
    hsTick s =
      if s.cfgHsTimeoutMs.toNat ≤ (nextTimer s.hsTimer).toNat then
        failHandshake (if s.hsCnt = 0#3 then .timedOut else .shortRead) { s with hsTimer := nextTimer s.hsTimer }
      else { s with hsTimer := nextTimer s.hsTimer } := by
  rw [← hsTimeout_awaiting (s := { s with hsTimer := nextTimer s.hsTimer }) ha]
  exact if_pos ha

theorem nextTimer_of_lt {timer : Half} (h : timer.toNat < 65535) :
    nextTimer timer = timer + 1 ∧ (nextTimer timer).toNat = timer.toNat + 1 := by
  have hne : timer ≠ 0xFFFF#16 := by bv_omega
  have hnext : nextTimer timer = timer + 1 := if_neg hne
  refine ⟨hnext, ?_⟩
  rw [hnext]
  bv_omega

/-- The timer saturates (R28). -/
theorem nextTimer_max : nextTimer 0xFFFF#16 = 0xFFFF#16 := rfl

/-- Settles O38: the time-out, the tick below the saturation and at it, and both outside `AWAITING`. -/
theorem timeoutFailsAwaitingHandshake : Obligations.TimeoutFailsAwaitingHandshake := by
  intro s
  refine ⟨fun ha => hsTimeout_awaiting ha, fun ha hlt => ?below, fun ha hmax => ?saturated,
    fun ha => ⟨hsTimeout_disabled ha, hsTick_disabled ha⟩⟩
  case below =>
    obtain ⟨hnext, hcount⟩ := nextTimer_of_lt hlt
    rw [hsTick_awaiting ha, hcount, hnext]
    rfl
  case saturated =>
    have htimer : s.hsTimer = 0xFFFF#16 := BitVec.eq_of_toNat_eq hmax
    have hbound : s.cfgHsTimeoutMs.toNat ≤ (0xFFFF#16).toNat := Nat.le_of_lt_succ s.cfgHsTimeoutMs.isLt
    rw [hsTick_awaiting ha, htimer, nextTimer_max, if_pos hbound]
    rfl

/-! ### The handshake state is final -/

/-- Settles O39: the handshake part of a step moves away from `AWAITING` only, and its control loop part writes no handshake register. -/
theorem handshakeStateIsFinal : Obligations.HandshakeStateIsFinal := by
  intro s t hr hstep
  obtain ⟨u, hu, ht, -⟩ := step_parts hr hstep
  obtain ⟨hhs, hcause, hbuf, hcnt, -⟩ := loopPart_handshake ht
  rw [hhs, hcause, hbuf, hcnt]
  exact ⟨hu.final, hu.awaiting⟩

/-! ### A failed session -/

theorem dgReady_of_not_ready {s : State} (h : s.hs ≠ .ready) : dgReady s = false := by
  simp [dgReady, h]

theorem blockTurn_idle {s : State} (hidle : s.loop = .idle) : blockTurn s = .next s := by
  simp only [blockTurn, hidle]

/-- In `IDLE`, outside `READY`, a clock edge is its serial byte and its tick: no beat is taken (R193, R204). -/
theorem clockEdge_idle {s : State} (hidle : s.loop = .idle) (hready : s.hs ≠ .ready) (p : PortIn) (done : Bool) :
    clockEdge p done s =
      andThen (if p.srxValid then hsRxByte p.srxData s else .next s) fun s1 =>
        .next (if p.tickMs then hsTick s1 else s1) := by
  simp only [clockEdge, hidle, dgReady_of_not_ready hready, Bool.and_false, Bool.false_eq_true, if_false]

/-- A clock edge in a failed session at rest: the byte and the tick are discarded (R179). -/
theorem clockEdge_failed {s : State} (hfailed : s.hs = .failed) (hidle : s.loop = .idle) (p : PortIn) (done : Bool) :
    clockEdge p done s = .next s := by
  have hawaiting : s.hs ≠ .awaiting := by simp [hfailed]
  rw [clockEdge_idle hidle (by simp [hfailed]), hsRxByte_disabled hawaiting, ite_self, andThen_next,
    hsTick_disabled hawaiting, ite_self]

/-- A stimulus that does not reset a failed session at rest moves no more than the strap levels (R178, R229). -/
theorem applyStimulus_failed {s : State} (hfailed : s.hs = .failed) (hidle : s.loop = .idle) {e : Stimulus}
    (hr : isReset e = false) : ∃ straps, applyStimulus e s = .next { s with straps := straps } := by
  have hawaiting : s.hs ≠ .awaiting := by simp [hfailed]
  have hready : s.hs ≠ .ready := by simp [hfailed]
  have hsend : s.loop ≠ .send := by simp [hidle]
  cases e with
  | turn => exact ⟨s.straps, blockTurn_idle hidle⟩
  | reset => cases hr
  | setStraps straps => exact ⟨straps, rfl⟩
  | datagram d => exact ⟨s.straps, congrArg _ (rxDatagram_disabled (fun h => hready h.1) d)⟩
  | rxBeat b keep last => exact ⟨s.straps, congrArg _ (rxBeat_disabled (dgReady_of_not_ready hready) b keep last)⟩
  | srx b => exact ⟨s.straps, hsRxByte_disabled hawaiting b⟩
  | timeout => exact ⟨s.straps, congrArg _ (hsTimeout_disabled hawaiting)⟩
  | tick => exact ⟨s.straps, congrArg _ (hsTick_disabled hawaiting)⟩
  | txBeat => exact ⟨s.straps, txBeat_disabled hsend⟩
  | txStep k => exact ⟨s.straps, if_neg hsend⟩
  | txRun => exact ⟨s.straps, txBeats_disabled hsend _⟩
  | cycle p done =>
    have hrst : ¬ p.rst = true := by simpa [isReset] using hr
    exact ⟨p.straps, (if_neg hrst).trans (clockEdge_failed (s := { s with straps := p.straps }) hfailed hidle p done)⟩

/-- Settles O40: the step by its stimulus, the ports by the state they show. -/
theorem failedSessionDoesNothing : Obligations.FailedSessionDoesNothing := by
  intro s hfailed hidle hr
  refine ⟨applyStimulus_failed (s := s.beginStep) hfailed hidle hr, ?abort, ?noDatagram, ?noByte⟩
  case abort => simp [outputs, sessionAbort, hfailed]
  case noDatagram => exact dgReady_of_not_ready (by simp [hfailed])
  case noByte => simp [outputs, txValid, hidle]

/-! ### Runs from `RESET` -/

/-- A run from a state that meets the invariant goes on and ends in one. -/
theorem inv_run {s : State} (h : Inv s) (k : Nat) : ∃ t : State, core.run k s = .next t ∧ Inv t := by
  induction k generalizing s with
  | zero => exact ⟨s, rfl, h⟩
  | succ k ih =>
    obtain ⟨u, hstep, hu⟩ := Memory.keepsInv_step h
    rw [run_of_next core k s u hstep]
    exact ih hu

/-- Under ADALIGHT bytes are sent only behind the magic: `AWAITING` and `FAILED` have sent none (R178, R192). -/
theorem magic_of_transmitted {t : State} (h : Inv t) (hprotocol : t.cfgProtocol = 0#2) (hsent : t.tx ≠ []) :
    t.hs = .ready ∧ t.hsCnt = 4#3 ∧ holdsMagic t.hsBuf := by
  cases hhs : t.hs with
  | awaiting =>
    obtain ⟨-, -, -, htx, -⟩ := (Memory.handshakeOk_awaiting hhs).1 h.handshake
    exact absurd htx hsent
  | ready =>
    obtain ⟨-, -, hmagic⟩ := (Memory.handshakeOk_ready hhs).1 h.handshake
    exact ⟨rfl, hmagic hprotocol⟩
  | failed =>
    obtain ⟨-, -, -, -, htx⟩ := (Memory.handshakeOk_failed hhs).1 h.handshake
    exact absurd htx hsent

/-- Settles O54: the invariant holds after `RESET` and along the run, and says it of every state that has transmitted. -/
theorem noByteBeforeMagic : Obligations.NoByteBeforeMagic := by
  intro n st script k hn
  obtain ⟨t, hrun, ht⟩ := inv_run (Memory.inv_freshState hn st script) k
  exact ⟨t, hrun, magic_of_transmitted ht⟩

/-! ### Stimuli that complete a word -/

/-- A step applies the stimulus at the head of the script. -/
theorem step_of_head {s : State} {e : Stimulus} (h : s.script.head? = some e) : step s = applyStimulus e s.beginStep := by
  have hnext : nextStimulus s = e := by rw [nextStimulus, List.headD_eq_head?_getD, h, Option.getD_some]
  rw [← hnext]
  rfl

/-- `RESET` with the reserved strap is the instruction `PSEL.RESERVED` (R233). -/
theorem resetStimulus_reserved {straps : Straps} (h : straps.cfgProtocol = 3#2) (s : State) :
    resetStimulus straps s = exec .pselReserved { s with straps := straps } := by
  rw [resetStimulus, if_pos h, h, fetchPsel_eq]
  rfl

theorem emittedFormat_header {s : State} {p : Protocol} (hp : protocolOf s.cfgProtocol = some p) (hptr : s.txPtr = 0#17) :
    emittedFormat (pspec p).headerLen s = some (pspec p).headerFormat := by
  simp [emittedFormat, hp, hptr]

/-- A header is never empty, so the footer does not stand where the header does. -/
theorem emittedFormat_footer {s : State} {p : Protocol} (hp : protocolOf s.cfgProtocol = some p)
    (hptr : s.txPtr.toNat = (pspec p).headerLen + s.fLen.toNat) :
    emittedFormat (pspec p).footerLen s = (pspec p).footerFormat := by
  have hpos : 0 < (pspec p).headerLen := by cases p <;> decide
  have hne : s.txPtr ≠ 0 := by
    intro h0
    rw [h0] at hptr
    exact absurd hptr (by show 0 ≠ _; omega)
  simp only [emittedFormat, hp, and_true]
  rw [if_neg fun h => hne h.1, if_pos hptr]

/-- A transmitter that takes exactly the bytes of an emitted word at `TX_PTR` runs that word (log 6). -/
theorem txStep_of_word {s : State} {f : Format} {bytes left : List Byte} {i : Instr} (hl : s.loop = .send)
    (hf : emittedFormat bytes.length s = some f) (hsize : s.txPtr.toNat + bytes.length ≤ s.outbufSize)
    (hread : ∀ j < bytes.length, s.outbuf.read (s.txPtr.toNat + j) = bytes[j]?)
    (hdecode : decode f bytes = .ok (i, left)) : txStep bytes.length s = exec i s := by
  have hload : loadBytes .outbuf s.outbufSize s.outbuf s.txPtr.toNat bytes.length = .ok bytes :=
    (loadBytes_ok_iff ..).2 ⟨rfl, fun j hj => ⟨by omega, hread j hj⟩⟩
  have hfetch : fetchEmitted bytes.length s = some i := by
    simp only [fetchEmitted, hf, hload, decodeWord, hdecode]
  simp only [txStep, if_pos hl, hfetch]

/-- Settles O6: the head of the script is applied, and each of the four stimuli runs the word it completes. -/
theorem stepRunsStimulusInstruction : Obligations.StepRunsStimulusInstruction := by
  intro s i
  refine ⟨?fourthByte, ?reserved, ?header, ?footer⟩
  case fourthByte =>
    intro b0 b1 b2 b3 hhead ha hcnt h0 h1 h2 hdecode
    cases hdecode
    rw [step_of_head hhead]
    exact Memory.hsRxByte_fourth (s := s.beginStep) b3 ha hcnt h0 h1 h2
  case reserved =>
    intro straps hhead h3
    rw [step_of_head hhead]
    exact resetStimulus_reserved h3 s.beginStep
  case header =>
    intro p bytes hhead hl hp hptr hlength hsize hread hdecode
    have hptr0 : s.txPtr.toNat = 0 := by rw [hptr]; rfl
    rw [step_of_head hhead]
    refine txStep_of_word (s := s.beginStep) hl (hlength ▸ emittedFormat_header hp hptr) ?_ ?_ hdecode
    · show s.txPtr.toNat + bytes.length ≤ s.outbufSize
      omega
    · intro j hj
      show s.outbuf.read (s.txPtr.toNat + j) = bytes[j]?
      rw [hptr0, Nat.zero_add, hread j hj]
  case footer =>
    intro p f bytes hhead hl hp hf hptr hlength hsize hread hdecode
    rw [step_of_head hhead]
    have hformat : emittedFormat bytes.length s.beginStep = some f := by
      rw [hlength, emittedFormat_footer (s := s.beginStep) hp hptr, hf]
    exact txStep_of_word (s := s.beginStep) hl hformat hsize hread hdecode

/-! ### One clock cycle -/

/-- Settles O41: at that edge the control loop adds nothing, so the byte and the tick are all of it, in this order (D14). -/
theorem byteComesBeforeTick : Obligations.ByteComesBeforeTick := by
  intro s p done hrst hbyte htick ha hidle
  have hready : s.hs ≠ .ready := by simp [ha]
  rw [clockCycle, hrst, if_neg Bool.false_ne_true, clockEdge_idle (s := { s with straps := p.straps }) hidle hready]
  simp only [hbyte, htick, if_true]

end Sys2Proof.Proofs.Handshake

/-! The statements of `46_control_loop.md`: reception (section 2), the block's own turn (section 3) and the instructions outside their
phase (section 1), transmission (section 4), one clock cycle with its ports (section 5), and the transition table of `LOOP` (section 1). -/

namespace Sys2Proof.Proofs.ControlLoop

open Sys2Proof Sys2Proof.Machine Sys2Proof.Safety

/-! ### Reception -/

/-- The block with these bytes received, cut to `RXBUF_SIZE`, and the control loop in that phase (R191, R193). -/
def received (kept : List Byte) (phase : LoopPhase) (s : State) : State :=
  { s with
    rxLen := min kept.length s.rxbufSize
    rxbuf := s.rxbuf.writeBytes 0 (kept.take s.rxbufSize)
    loop := phase }

theorem rxDatagram_eq_received {s : State} (hready : s.hs = .ready) (hidle : s.loop = .idle) (d : List Byte) :
    rxDatagram d s = received d .decode s :=
  rxDatagram_enabled hready hidle d

/-- Of a datagram received, the bytes below `RX_LEN` are its own and the others are as before (R191). -/
theorem read_received (kept : List Byte) (phase : LoopPhase) (s : State) (a : Nat) :
    (received kept phase s).rxbuf.read a = if a < min kept.length s.rxbufSize then kept[a]? else s.rxbuf.read a := by
  have hlength : (kept.take s.rxbufSize).length = min kept.length s.rxbufSize := by rw [List.length_take, min_comm]
  show (s.rxbuf.writeBytes 0 (kept.take s.rxbufSize)).read a = _
  rw [EncodeAdalight.read_writeBytes_zero, hlength]
  split
  · next hin => rw [List.getElem?_take_of_lt (hin.trans_le (min_le_right ..))]
  · rfl

/-- Settles O33: the datagram taken is `received`, and the other two clauses are the operations outside their phase. -/
theorem datagramIsReceived : Obligations.DatagramIsReceived := by
  intro s d
  refine ⟨fun hready hidle => ?taken, fun hoff => congrArg _ (rxDatagram_disabled hoff d), Handshake.blockTurn_idle⟩
  case taken =>
    exact ⟨received d .decode s, congrArg Host.Outcome.next (rxDatagram_eq_received hready hidle d), rfl,
      read_received d .decode s⟩

/-- The bytes of the beats that carry one (R193). -/
def keptBytes (beats : List (Byte × Bool)) : List Byte := (beats.filter (fun x => x.2)).map (fun x => x.1)

theorem keptBytes_append_singleton (beats : List (Byte × Bool)) (b : Byte) (keep : Bool) :
    keptBytes (beats ++ [(b, keep)]) = keptBytes beats ++ (if keep then [b] else []) := by
  cases keep <;> simp [keptBytes]

/-- A kept byte goes behind those received, or is discarded when `RXBUF` is full (R194). -/
theorem appendBeat_kept (b : Byte) (kept : List Byte) (phase : LoopPhase) (s : State) :
    appendBeat b true (received kept phase s) = received (kept ++ [b]) phase s := by
  by_cases hroom : kept.length < s.rxbufSize
  · have hlen : min kept.length s.rxbufSize = kept.length := min_eq_left hroom.le
    have hlen' : min (kept ++ [b]).length s.rxbufSize = kept.length + 1 := by
      rw [List.length_append, List.length_singleton]
      exact min_eq_left hroom
    have htake : kept.take s.rxbufSize = kept := List.take_of_length_le hroom.le
    have htake' : (kept ++ [b]).take s.rxbufSize = kept ++ [b] := List.take_of_length_le (by simpa using hroom)
    simp only [appendBeat, received, hlen, hlen', htake, htake', hroom, and_self, if_true, Mem.writeBytes_append,
      Nat.zero_add, Mem.writeBytes]
  · have hfull : s.rxbufSize ≤ kept.length := not_lt.1 hroom
    have hlen : min kept.length s.rxbufSize = s.rxbufSize := min_eq_right hfull
    have hlen' : min (kept ++ [b]).length s.rxbufSize = s.rxbufSize := min_eq_right (by simp; omega)
    have htake : (kept ++ [b]).take s.rxbufSize = kept.take s.rxbufSize := List.take_append_of_le_length hfull
    simp only [appendBeat, received, hlen, hlen', htake, lt_irrefl, and_false, if_false]

/-- A beat appends its byte to those received, if it carries one. -/
theorem appendBeat_received (b : Byte) (keep : Bool) (kept : List Byte) (phase : LoopPhase) (s : State) :
    appendBeat b keep (received kept phase s) = received (kept ++ (if keep then [b] else [])) phase s := by
  cases keep with
  | true => exact appendBeat_kept b kept phase s
  | false => rw [if_neg Bool.false_ne_true, List.append_nil, appendBeat, if_neg fun h => Bool.false_ne_true h.1]

/-- The phase behind a beat (R193). -/
def phaseAfterBeat (last : Bool) : LoopPhase := if last then .decode else .recv

/-- The first beat of a datagram is received alone: it clears `RX_LEN`. -/
theorem rxBeat_first {s : State} (hready : s.hs = .ready) (hidle : s.loop = .idle) (b : Byte) (keep last : Bool) :
    rxBeat b keep last s = received (if keep then [b] else []) (phaseAfterBeat last) s := by
  have hon : dgReady s = true := (dgReady_iff s).2 ⟨hready, .inl hidle⟩
  have hbeat : rxBeat b keep last s =
      { appendBeat b keep { s with rxLen := 0 } with loop := phaseAfterBeat last } := by
    simp only [rxBeat, if_pos hon, if_pos hidle, phaseAfterBeat]
  have hempty : { s with rxLen := 0 } = received [] .idle s := by
    rw [received, List.length_nil, Nat.zero_min, List.take_nil, Mem.writeBytes, ← hidle]
  rw [hbeat, hempty, appendBeat_received]
  rfl

/-- A beat in `RECV` goes behind those before it. -/
theorem rxBeat_received {s : State} (hready : s.hs = .ready) (kept : List Byte) (b : Byte) (keep last : Bool) :
    rxBeat b keep last (received kept .recv s) =
      received (kept ++ (if keep then [b] else [])) (phaseAfterBeat last) s := by
  have hon : dgReady (received kept .recv s) = true := (dgReady_iff _).2 ⟨hready, .inr rfl⟩
  have hbeat : rxBeat b keep last (received kept .recv s) =
      { appendBeat b keep (received kept .recv s) with loop := phaseAfterBeat last } := if_pos hon
  rw [hbeat, appendBeat_received]
  rfl

/-- Beats one after the other leave the bytes they carry received. -/
theorem rxBeat_foldl {s : State} (hready : s.hs = .ready) (hidle : s.loop = .idle) (beats : List (Byte × Bool)) (b : Byte)
    (keep last : Bool) :
    rxBeat b keep last (beats.foldl (fun t x => rxBeat x.1 x.2 false t) s) =
      received (keptBytes (beats ++ [(b, keep)])) (phaseAfterBeat last) s := by
  rw [keptBytes_append_singleton]
  induction beats using List.reverseRecOn generalizing b keep last with
  | nil => exact rxBeat_first hready hidle b keep last
  | append_singleton beats x ih =>
    rw [List.foldl_append, List.foldl_cons, List.foldl_nil, ih, keptBytes_append_singleton]
    exact rxBeat_received hready _ b keep last

/-- Settles O34: both sides are the kept bytes received, with the loop in `DECODE`. -/
theorem beatsAreTheDatagram : Obligations.BeatsAreTheDatagram := by
  intro s beats b keep hready hidle
  rw [rxBeat_foldl hready hidle, rxDatagram_eq_received hready hidle]
  rfl

/-- Settles O16: the verdict on the cut length is the verdict on the datagram's own, and it decides all three. -/
theorem cutDatagramKeepsVerdict : Obligations.CutDatagramKeepsVerdict := by
  intro s t t' i channel command n hi hsize hl ht ht'
  rw [Decode.exec_opc_decided hi hl] at ht
  rw [Decode.exec_opc_decided (s := { s with rxLen := min s.rxLen s.rxbufSize }) hi hl, Iteration.verdictOf_cut hsize] at ht'
  cases ht
  cases ht'
  simp only [Decode.decided_statusErr, Decode.decided_loop, Decode.decided_events, and_self]

/-! ### The block's own turn -/

/-- With nothing from the environment, or the entry `turn`, the step is the block's own turn. -/
theorem step_turn {s : State} (h : s.script = [] ∨ s.script.head? = some .turn) : step s = blockTurn s.beginStep := by
  rcases h with hnone | hturn
  · have hnext : nextStimulus s = .turn := by rw [nextStimulus, hnone, List.headD_nil]
    show applyStimulus (nextStimulus s) s.beginStep = _
    rw [hnext]
    rfl
  · exact Handshake.step_of_head hturn

/-- In `DECODE` the turn runs the header read from the four bytes in front of the datagram (R196). -/
theorem blockTurn_decode {s : State} {i : Instr} {b0 b1 b2 b3 : Byte} (hl : s.loop = .decode) (h4 : 4 ≤ s.rxLen)
    (hlen : s.rxLen ≤ s.rxbufSize) (h0 : s.rxbuf.read 0 = some b0) (h1 : s.rxbuf.read 1 = some b1)
    (h2 : s.rxbuf.read 2 = some b2) (h3 : s.rxbuf.read 3 = some b3)
    (hi : decode .opcHdr [b0, b1, b2, b3] = .ok (i, [])) : blockTurn s = exec i s := by
  have hload : loadBytes .rxbuf s.rxbufSize s.rxbuf 0 4 = .ok [b0, b1, b2, b3] := by
    refine (loadBytes_ok_iff ..).2 ⟨rfl, fun j hj => ⟨by omega, ?_⟩⟩
    rw [Nat.zero_add]
    match j, hj with
    | 0, _ => exact h0
    | 1, _ => exact h1
    | 2, _ => exact h2
    | 3, _ => exact h3
  have hfetch : fetchHeader s = .ok i := by simp only [fetchHeader, hload, decodeWord, hi]
  simp only [blockTurn, hl]
  rw [decodeTurn, if_neg (not_lt.2 h4), hfetch, withAccess_ok]

/-- In `ENCODE` the turn runs the instruction that `CFG.PROTOCOL` selects (R197). -/
theorem blockTurn_encode {s : State} {i : Instr} (hl : s.loop = .encode) (hprotocol : s.cfgProtocol ≠ 3#2)
    (hi : decode .psel [s.cfgProtocol.setWidth 8] = .ok (i, [])) : blockTurn s = exec i s := by
  have hfetch : fetchPsel s.cfgProtocol = .ok i := by simp only [fetchPsel, decodeWord, hi]
  simp only [blockTurn, hl]
  rw [encodeTurn, if_neg hprotocol, hfetch, withAccess_ok]

/-- Settles O5: the step is the turn, which finds the same instruction by fetching it. -/
theorem stepRunsFetchedInstruction : Obligations.StepRunsFetchedInstruction := by
  intro s i hscript
  rw [step_turn hscript]
  exact ⟨fun b0 b1 b2 b3 => blockTurn_decode (s := s.beginStep), blockTurn_encode (s := s.beginStep)⟩

/-! ### Instructions outside their phase -/

theorem exec_opc_disabled {s : State} {i : Instr} (hi : ∃ f, opcFields i = some f) (hl : s.loop ≠ .decode) :
    exec i s = .next s := by
  obtain ⟨⟨channel, command, n⟩, hf⟩ := hi
  rw [exec_opc hf, decodeDatagram_disabled hl]

/-- An encoder tests `LOOP` before anything else. -/
theorem exec_psel_disabled {s : State} {i : Instr} (hi : i.format = .psel) (hreserved : i ≠ .pselReserved)
    (hl : s.loop ≠ .encode) : exec i s = .next s := by
  cases i with
  | encAdalight | encAwa | encTpm2 => exact if_pos hl
  | pselReserved => exact absurd rfl hreserved
  | _ => cases hi

theorem exec_hsWord_disabled {s : State} {i : Instr} (hi : i.format = .hsMagic) (ha : s.hs ≠ .awaiting) :
    exec i s = .next s := by
  cases i with
  | hsMagic | hsMismatch => exact if_neg ha
  | _ => cases hi

/-- Nothing is laid out or sent in the three phases before `ENCODE`. -/
theorem emitWord_disabled {s : State} (hencode : s.loop ≠ .encode) (hsend : s.loop ≠ .send) (a : Nat) (w : List Byte) :
    emitWord a w s = .next s := by
  cases hl : s.loop with
  | encode => exact absurd hl hencode
  | send => exact absurd hl hsend
  | idle | recv | decode => simp only [emitWord, hl]

/-- Settles O43, one clause for each family of rows. -/
theorem disabledInstructionDoesNothing : Obligations.DisabledInstructionDoesNothing := by
  intro s i
  refine ⟨exec_opc_disabled, exec_psel_disabled, exec_hsWord_disabled, ?emitted⟩
  case emitted =>
    rintro ⟨⟨a, w⟩, hw⟩ hencode hsend
    rw [exec_emitted hw, emitWord_disabled hencode hsend]

/-! ### Transmission -/

/-- No emitted header or footer is empty (R86 to R88). -/
theorem emittedWord_ne_nil {n : Nat} {i : Instr} {a : Nat} {w : List Byte} (h : emittedWord n i = some (a, w)) :
    w ≠ [] := by
  cases i with
  | txAdalightHdr | txAwaHdr | txAwaFtr | txTpm2Hdr | txTpm2Ftr => cases h; exact List.cons_ne_nil _ _
  | _ => cases h

theorem exec_emitted_send {s : State} {i : Instr} {a : Nat} {w : List Byte}
    (hi : emittedWord s.fLen.toNat i = some (a, w)) (hl : s.loop = .send) : exec i s = .next (sendBytes w s) := by
  rw [exec_emitted hi, emitWord_send hl]

/-- Settles O27: the word is not empty, so its bytes sent are `sendBytes_send`. -/
theorem emittedWordIsSent : Obligations.EmittedWordIsSent := by
  intro s i a w hi hl hfits
  rw [exec_emitted_send hi hl, sendBytes_send w s hl (emittedWord_ne_nil hi) hfits]

/-- Settles O28: both are the word's bytes sent. -/
theorem emittedWordIsItsBeats : Obligations.EmittedWordIsItsBeats := by
  intro s i a w hi hl hfits hsize hread
  rw [exec_emitted_send hi hl, txBeats_eq_sendBytes w s hl hfits hsize hread]

/-- Settles O30: the equation of `TXRUN` that the whole iteration rests on too. -/
theorem transmitterGetsRestOfFrame : Obligations.TransmitterGetsRestOfFrame :=
  fun _ _ => Iteration.txRun_eq

/-! ### One clock cycle -/

/-- In `READY` serial bytes and ticks are discarded, and a beat is taken where the phase takes one (R179, R204). -/
theorem clockEdge_ready {s : State} (hready : s.hs = .ready) (p : PortIn) (done : Bool) :
    clockEdge p done s =
      match s.loop with
      | .idle => .next (if p.dgValid then rxBeat p.dgData p.dgKeep p.dgLast s else s)
      | .recv => .next (if p.dgValid then rxBeat p.dgData p.dgKeep p.dgLast s else s)
      | .decode => if done then blockTurn s else .next s
      | .encode => if done then blockTurn s else .next s
      | .send => if p.txReady then txBeat s else .next s := by
  have hawaiting : s.hs ≠ .awaiting := by simp [hready]
  have hbyte : (if p.srxValid then hsRxByte p.srxData s else .next s) = .next s := by
    rw [hsRxByte_disabled hawaiting, ite_self]
  have htick : (if p.tickMs then hsTick s else s) = s := by rw [hsTick_disabled hawaiting, ite_self]
  rw [clockEdge, hbyte, andThen_next, htick]
  cases hl : s.loop with
  | idle | recv =>
    have hon : dgReady s = true := (dgReady_iff s).2 ⟨hready, by simp [hl]⟩
    simp only [hon, Bool.and_true]
  | decode | encode | send => rfl

theorem clockCycle_of_not_rst {p : PortIn} (h : p.rst = false) (done : Bool) (s : State) :
    clockCycle p done s = clockEdge p done { s with straps := p.straps } := by
  rw [clockCycle, h, if_neg Bool.false_ne_true]

/-- Settles O44: the cycle is its clock edge under the sampled straps. -/
theorem readyCycleIsOneLoopOperation : Obligations.ReadyCycleIsOneLoopOperation := by
  intro s p done hready hrst
  exact (clockCycle_of_not_rst hrst done s).trans (clockEdge_ready (s := { s with straps := p.straps }) hready p done)

/-- Settles O29: a beat in `SEND` by its equation, and a cycle whose one operation, the beat, the transmitter does not take. -/
theorem txBeatSendsOneByte : Obligations.TxBeatSendsOneByte := by
  refine ⟨fun s b hl hptr hsize hb => ?sends, fun s hl => txBeat_disabled hl, fun s p done hl hready hrst hwait => ?waits⟩
  case sends =>
    have hsucc := txPtr_succ hptr
    have hend := txPtr_succ_eq_iff hptr
    by_cases hlast : s.txPtr.toNat + 1 = s.outLen.toNat
    · have hsent := (sendByte_send hl b).trans (if_pos (hend.2 hlast))
      simp only [if_pos hlast, decide_eq_true hlast, Bool.or_true]
      exact ⟨_, (txBeat_send hl hsize hb).trans (congrArg _ hsent), rfl, hsucc, rfl, by simp, rfl, rfl⟩
    · have hsent := (sendByte_send hl b).trans (if_neg (mt hend.1 hlast))
      simp only [if_neg hlast, decide_eq_false hlast, Bool.or_false, List.append_nil]
      exact ⟨_, (txBeat_send hl hsize hb).trans (congrArg _ hsent), rfl, hsucc, hl, rfl, rfl, rfl⟩
  case waits =>
    rw [readyCycleIsOneLoopOperation s p done hready hrst]
    simp only [hl, hwait, Bool.false_eq_true, if_false]

/-- Settles O45: the ports are the state's by definition; that the byte offered in `SEND` is a written one is the invariant's. -/
theorem portsShowTheState : Obligations.PortsShowTheState := by
  intro s h
  refine ⟨dgReady_iff s, ?valid, ?busy, ?abort, ?last, fun hl => ?data, ?hs, ?cause, ?err, rfl, rfl, rfl, rfl, rfl⟩
  case valid | busy | abort | last => exact decide_eq_true_iff
  case data =>
    have hdata : (outputs s).txData = s.outbuf.read s.txPtr.toNat := if_pos hl
    obtain ⟨hptr, -, hread⟩ := Memory.sending_readable h hl
    exact ⟨hdata, hdata ▸ Option.isSome_iff_exists.2 (hread _ hptr)⟩
  case hs =>
    show s.hs.code = _
    cases s.hs <;> rfl
  case cause =>
    show s.hsCause.code = _
    cases s.hsCause <;> rfl
  case err =>
    show s.statusErr.code = _
    cases s.statusErr <;> rfl

/-! ### The transition table -/

/-- From a state to one after it `LOOP` stays or takes a transition of R190. -/
def Transition (s t : State) : Prop :=
  match s.loop with
  | .idle => t.loop = .idle ∨ (s.hs = .ready ∧ (t.loop = .recv ∨ t.loop = .decode))
  | .recv => t.loop = .recv ∨ t.loop = .decode
  | .decode => t.loop = .decode ∨ (t.loop = .encode ∧ t.statusErr = .ok) ∨ (t.loop = .idle ∧ t.statusErr ≠ .ok)
  | .encode => t.loop = .encode ∨ (t.loop = .send ∧ t.txPtr = 0#17)
  | .send => t.loop = .send ∨ (t.loop = .idle ∧ t.txPtr = t.outLen)

theorem transition_of_loop_eq {s t : State} (h : t.loop = s.loop) : Transition s t := by
  unfold Transition
  split <;> exact .inl (by rw [h]; assumption)

theorem transition_rxDatagram (d : List Byte) (s : State) : Transition s (rxDatagram d s) := by
  by_cases hon : s.hs = .ready ∧ s.loop = .idle
  · obtain ⟨hready, hidle⟩ := hon
    rw [rxDatagram_eq_received hready hidle]
    simp only [Transition, hidle]
    exact .inr ⟨hready, .inr rfl⟩
  · exact transition_of_loop_eq (by rw [rxDatagram_disabled hon])

/-- A beat taken leads to `RECV`, or to `DECODE` if it is the last (R193). -/
theorem rxBeat_loop {s : State} (h : dgReady s = true) (b : Byte) (keep last : Bool) :
    (rxBeat b keep last s).loop = phaseAfterBeat last := by
  rw [rxBeat, if_pos h]
  rfl

theorem phaseAfterBeat_cases (last : Bool) : phaseAfterBeat last = .recv ∨ phaseAfterBeat last = .decode := by
  cases last
  · exact .inl rfl
  · exact .inr rfl

theorem transition_rxBeat (b : Byte) (keep last : Bool) (s : State) : Transition s (rxBeat b keep last s) := by
  by_cases hon : dgReady s = true
  · obtain ⟨hready, hidle | hrecv⟩ := (dgReady_iff s).1 hon
    · simp only [Transition, hidle, rxBeat_loop hon]
      exact .inr ⟨hready, phaseAfterBeat_cases last⟩
    · simp only [Transition, hrecv, rxBeat_loop hon]
      exact phaseAfterBeat_cases last
  · exact transition_of_loop_eq (by rw [rxBeat_disabled (by simpa using hon)])

/-- `DECODE` leads to `ENCODE` with the verdict OK and to `IDLE` with any other (R101, R224). -/
theorem transition_decodeDatagram (channel command : Byte) (n : Half) {s : State} (hl : s.loop = .decode) :
    Transition s (decodeDatagram channel command n s) := by
  rw [Decode.decodeDatagram_eq_decided channel command n hl]
  generalize verdictOf s.rxbufSize s.rxLen s.cfgChannel channel command n.toNat = verdict
  simp only [Transition, hl, Decode.decided_loop, Decode.decided_statusErr]
  by_cases hok : verdict = .ok
  · exact .inr (.inl ⟨if_pos hok, hok⟩)
  · exact .inr (.inr ⟨if_neg hok, hok⟩)

theorem transition_encoded {s t : State} (hl : s.loop = .encode) (h : Encoded s t) : Transition s t := by
  simp only [Transition, hl]
  cases h <;> exact .inr ⟨rfl, rfl⟩

/-- Bytes sent leave the frame under way or end it at `OUT_LEN` (R199). -/
theorem sendBytes_loop (w : List Byte) {s : State} (hl : s.loop = .send) :
    (sendBytes w s).loop = .send ∨ ((sendBytes w s).loop = .idle ∧ (sendBytes w s).txPtr = (sendBytes w s).outLen) := by
  induction w generalizing s with
  | nil => exact .inl hl
  | cons b w ih =>
    rw [sendBytes, sendByte_send hl]
    split
    · next hend =>
      rw [sendBytes_disabled]
      · exact .inr ⟨rfl, hend⟩
      · exact nofun
    · exact ih hl

/-- Every operation of the control loop takes a transition of the table or none. -/
theorem transition_loopPart {u t : State} (h : LoopPart u t) : Transition u t := by
  cases h with
  | none => exact transition_of_loop_eq rfl
  | dec channel command n hl => exact transition_decodeDatagram channel command n hl
  | enc t hl ht => exact transition_encoded hl ht
  | dg d => exact transition_rxDatagram d u
  | beat b keep last => exact transition_rxBeat b keep last u
  | send w hl =>
    simp only [Transition, hl]
    exact sendBytes_loop w hl

/-- Settles O42: the handshake part of a step leaves `LOOP`, and in `IDLE` its control loop part, if it acts, finds `HS` as before
the step. -/
theorem loopFollowsTransitionTable : Obligations.LoopFollowsTransitionTable := by
  intro s t hr hstep
  show Transition s t
  obtain ⟨u, hu, ht, hidle⟩ := step_parts hr hstep
  have hloop : u.loop = s.loop := by rw [hu.frame]
  have htable := transition_loopPart ht
  by_cases hsame : t = u
  · exact transition_of_loop_eq (by rw [hsame, hloop])
  · unfold Transition at htable ⊢
    rw [hloop] at htable
    cases hl : s.loop with
    | idle =>
      simp only [hl, hidle hl hsame] at htable
      exact htable
    | recv | decode | encode | send =>
      simp only [hl] at htable
      exact htable

end Sys2Proof.Proofs.ControlLoop

/-! The statement of `46_control_loop.md` section 4: of all a step can do, only bytes sent write `TX`, and they go behind what stands there
(R200, R226). -/

namespace Sys2Proof.Proofs.Transmission

open Sys2Proof Sys2Proof.Machine Sys2Proof.Safety

/-- A byte sent stands at the end of `TX` (R199). -/
theorem sendByte_tx {s : State} (hl : s.loop = .send) (b : Byte) : (sendByte b s).tx = s.tx ++ [b] := by
  rw [sendByte_send hl]
  split <;> rfl

/-- Bytes sent from any state leave what stands in `TX` and only append to it. -/
theorem sendBytes_tx_appends (w : List Byte) (s : State) : ∃ sent, (sendBytes w s).tx = s.tx ++ sent := by
  induction w generalizing s with
  | nil => exact ⟨[], (List.append_nil _).symm⟩
  | cons b w ih =>
    by_cases hl : s.loop = .send
    · obtain ⟨sent, hsent⟩ := ih (sendByte b s)
      refine ⟨b :: sent, ?_⟩
      calc (sendBytes (b :: w) s).tx = (sendByte b s).tx ++ sent := hsent
        _ = s.tx ++ [b] ++ sent := by rw [sendByte_tx hl]
        _ = s.tx ++ b :: sent := List.append_cons .. |>.symm
    · exact ⟨[], by rw [sendBytes_disabled hl, List.append_nil]⟩

theorem decodeDatagram_tx (channel command : Byte) (n : Half) (s : State) :
    (decodeDatagram channel command n s).tx = s.tx := by
  have hframe := decodeDatagram_frame channel command n s
  simp only at hframe
  rw [hframe]

theorem rxBeat_tx (b : Byte) (keep last : Bool) (s : State) : (rxBeat b keep last s).tx = s.tx := by
  have hframe := rxBeat_frame b keep last s
  simp only at hframe
  rw [hframe]

/-- An operation of the control loop other than a send leaves `TX`. -/
theorem loopPart_tx_cases {u t : State} (h : LoopPart u t) :
    t.tx = u.tx ∨ (u.loop = .send ∧ ∃ w, t = sendBytes w u) := by
  cases h with
  | none => exact .inl rfl
  | dec channel command n hl => exact .inl (decodeDatagram_tx channel command n u)
  | enc t hl ht => cases ht <;> exact .inl rfl
  | dg d =>
    unfold rxDatagram
    split <;> exact .inl rfl
  | beat b keep last => exact .inl (rxBeat_tx b keep last u)
  | send w hl => exact .inr ⟨hl, w, rfl⟩

/-- Settles O32: the handshake part of a step leaves `TX` and `LOOP`, so the phase in which the control loop part sends is that before
the step. -/
theorem txGrowsOnlyInSend : Obligations.TxGrowsOnlyInSend := by
  intro s t hr h
  obtain ⟨u, hu, ht, -⟩ := step_parts hr h
  have htx : u.tx = s.tx := by rw [hu.frame]
  have hloop : u.loop = s.loop := by rw [hu.frame]
  rw [← htx, ← hloop]
  rcases loopPart_tx_cases ht with hsame | ⟨hsend, w, rfl⟩
  · exact ⟨⟨[], by rw [hsame, List.append_nil]⟩, fun _ => hsame⟩
  · obtain ⟨sent, hsent⟩ := sendBytes_tx_appends w u
    exact ⟨⟨sent, hsent.symm⟩, fun hne => absurd hsend hne⟩

end Sys2Proof.Proofs.Transmission

/-! The statements of `60_exceptions.md`: what taking a decode error leaves (section 3), on the equation of a verdict that `DECODE` is, and
the failed configuration (section 4). -/

namespace Sys2Proof.Proofs.Exceptions

open Sys2Proof Sys2Proof.Machine Sys2Proof.Safety Sys2Proof.Proofs.Decode

/-! ### Taking a decode error -/

/-- The frame registers an error leaves, each by the errors that are raised before it is written (R221, last column). -/
theorem withHeader_eq_of_ne_ok {e : ErrCode} (h : e ≠ .ok) (channel command : Byte) (n : Half) (s : State) :
    withHeader channel command n s e =
      { s with
        fChannel := if e = .tooShort then s.fChannel else channel
        fCommand := if e = .tooShort ∨ e = .channelMismatch then s.fCommand else command
        fLen := if e = .payloadTooLarge ∨ e = .truncatedPayload then n else s.fLen } := by
  cases e with
  | ok => exact absurd rfl h
  | tooShort | channelMismatch | unsupportedCommand | payloadTooLarge | truncatedPayload => rfl

/-- Settles O15: the answer is the state of the header's verdict, and a verdict other than OK drops the datagram. -/
theorem raiseChangesNothingElse : Obligations.RaiseChangesNothingElse := by
  intro s t i channel command n hi hl h herr
  obtain ⟨hverdict, -⟩ := verdict_of_exec_opc hi hl h
  rw [exec_opc_decided hi hl, ← hverdict, decided_of_ne_ok herr, withHeader_eq_of_ne_ok herr] at h
  exact (Host.Outcome.next.inj h).symm

/-! ### The failed configuration -/

/-- `PSEL.RESERVED` is `RESET` with the reserved selection, in every state (R233). -/
theorem exec_pselReserved (s : State) :
    exec .pselReserved s = .next (freshState s.rxbufSize { s.straps with cfgProtocol := 3#2 } s.script) := by
  rw [← resetWith_eq]
  rfl

/-- After `RESET` with the reserved selection the session has failed for its configuration (R41, R233). -/
theorem freshState_reserved {st : Straps} (h : st.cfgProtocol = 3#2) (n : Nat) (script : List Stimulus) :
    (freshState n st script).hs = .failed ∧ (freshState n st script).hsCause = .cfgInvalid := by
  rw [freshState_hs, freshState_hsCause, h]
  exact ⟨rfl, rfl⟩

/-- A session that has failed is aborted at the port (R203). -/
theorem outputs_sessionAbort {s : State} (h : s.hs = .failed) : (outputs s).sessionAbort = true :=
  decide_eq_true h

/-- Settles O47: the row answers the fresh state of the reserved selection, whose buffers are empty. -/
theorem reservedSelectionFails : Obligations.ReservedSelectionFails := by
  intro s
  obtain ⟨hfailed, hcause⟩ :=
    freshState_reserved (st := { s.straps with cfgProtocol := 3#2 }) rfl s.rxbufSize s.script
  exact ⟨_, exec_pselReserved s, rfl, freshState_cfgProtocol .., hfailed, hcause, freshState_loop .., freshState_tx ..,
    outputs_sessionAbort hfailed, fun a => ⟨Mem.read_empty a, Mem.read_empty a, Mem.read_empty a⟩⟩

end Sys2Proof.Proofs.Exceptions

/-! The statements of `70_reset_and_hazards.md` section 1: `RESET` at either level, and the invariant behind it. -/

namespace Sys2Proof.Proofs.Reset

open Sys2Proof Sys2Proof.Machine Sys2Proof.Safety

/-! ### `RESET` at either level -/

/-- The event `RESET` leaves the fresh state for its straps (R250). -/
theorem step_reset (st : Straps) (s : State) :
    step { s with script := .reset st :: s.script } = .next (freshState s.rxbufSize st s.script) :=
  BlockState.resetStimulus_eq st { s with pulses := Pulses.none }

/-- With `rst` = 1 a clock cycle is `RESET` with the sampled straps, whatever the other ports carry (R232). -/
theorem clockCycle_of_rst {p : PortIn} (h : p.rst = true) (done : Bool) (s : State) :
    clockCycle p done s = resetStimulus p.straps s :=
  if_pos h

theorem step_cycle_of_rst {p : PortIn} (h : p.rst = true) (done : Bool) (s : State) :
    step { s with script := .cycle p done :: s.script } = .next (freshState s.rxbufSize p.straps s.script) :=
  (clockCycle_of_rst h done { s with pulses := Pulses.none }).trans (BlockState.resetStimulus_eq p.straps _)

/-! ### The table of reset values -/

/-- Under ADALIGHT the session begins with the handshake (R251). -/
theorem freshState_adalight {st : Straps} (h : st.cfgProtocol = 0#2) (n : Nat) (script : List Stimulus) :
    (freshState n st script).hs = .awaiting ∧ (freshState n st script).hsCause = .noCause := by
  rw [freshState_hs, freshState_hsCause, h]
  exact ⟨rfl, rfl⟩

/-- Under AWA and TPM2 there is no handshake: the session is ready at once (R251). -/
theorem freshState_awa_or_tpm2 {st : Straps} (h : st.cfgProtocol = 1#2 ∨ st.cfgProtocol = 2#2) (n : Nat)
    (script : List Stimulus) :
    (freshState n st script).hs = .ready ∧ (freshState n st script).hsCause = .noCause := by
  rw [freshState_hs, freshState_hsCause]
  rcases h with h | h <;> rw [h] <;> exact ⟨rfl, rfl⟩

/-- Settles O46: both levels leave the fresh state; only `HS` and its cause depend on the protocol, every other register holds the one
value of the table. -/
theorem resetGivesTheTable : Obligations.ResetGivesTheTable := by
  intro s st p done hrst hstraps
  refine ⟨step_reset st s, hstraps ▸ step_cycle_of_rst hrst done s, rfl, rfl, rfl, ?adalight, ?awaOrTpm2, ?reserved, ?rest⟩
  case adalight => exact fun h => freshState_adalight h _ _
  case awaOrTpm2 => exact fun h => freshState_awa_or_tpm2 h _ _
  case reserved => exact fun h => Exceptions.freshState_reserved h _ _
  case rest => exact ⟨rfl, rfl, rfl, rfl, rfl, rfl, rfl, rfl, rfl, rfl, rfl, rfl, rfl, rfl, rfl, rfl, rfl, rfl⟩

/-! ### The invariant -/

/-- Settles O51: `State.reset` is one of the fresh states, with an `RXBUF_SIZE` the spec allows (R7). -/
theorem resetMeetsTheInvariant : Obligations.ResetMeetsTheInvariant := by
  have hfresh (n : Nat) (st : Straps) (script : List Stimulus) (hn : 4 ≤ n) : Inv (freshState n st script) :=
    Memory.inv_freshState hn st script
  refine ⟨hfresh, ?_⟩
  rw [Machine.reset_eq_freshState]
  exact hfresh _ _ _ (by decide)

end Sys2Proof.Proofs.Reset
